-- ==== Sys2Proof/Word.lean ====
section
/-! DEFINITION. The word types of the adapter: a byte, a nibble, a request word, a host address (rules R9, R41, R60). -/

namespace Sys2Proof

/-- A byte: the unit of every frame, of host memory and of DDRAM (R9, R49). -/
abbrev Byte := BitVec 8

/-- A 4-bit half of a byte (R13, Glossary "Nibble"). -/
abbrev Nibble := BitVec 4

/-- A REQ48 request word, bit 47 most significant (R60). -/
abbrev ReqWord := BitVec 48

/-- A host-memory address: HOST_ADDR_WIDTH = 32 bits (R8, R41). -/
abbrev HostAddr := BitVec 32

end Sys2Proof
end

