-- ==== Sys2Proof/Syntax.lean ====
section
/-! DEFINITION. The ten requests of the adapter, one constructor per row of spec/opcode_table.json (rules R3, R61, R66). -/

namespace Sys2Proof

/-- A decoded request (R66). Every operand has exactly the width rule R62 gives its field, so every term is a request some
word encodes: the checks a word can fail are those of WellFormed.lean. -/
inductive Instr where
  /-- FRAME: one logical byte `value`, as data (RS = 1) where `isData` (R89). -/
  | frame (isData : Bool) (value : Byte)
  /-- INIT: the controller initialization handshake (R97). -/
  | init
  /-- CLEAR: clear the display (R131). -/
  | clear
  /-- SET_CURSOR: set the controller's DDRAM address from a row and a column (R107). -/
  | setCursor (row : BitVec 32) (col : Byte)
  /-- SEND_CHAR: one data byte (R113). -/
  | sendChar (c : Byte)
  /-- SEND_STRING: the NUL-terminated string at host address `ptr` (R117). -/
  | sendString (ptr : HostAddr)
  /-- SEND_INT: `n` in decimal, read as 32-bit two's complement (R121, D13). -/
  | sendInt (n : BitVec 32)
  /-- SHIFT_RIGHT: shift the displayed window right (R133). -/
  | shiftRight
  /-- SHIFT_LEFT: shift the displayed window left (R135). -/
  | shiftLeft
  /-- SCROLL_LEFT: forty slow left shifts (R137). -/
  | scrollLeft
  deriving DecidableEq, Repr

end Sys2Proof
end

