-- ==== Sys2Proof/WellFormed.lean ====
section
/-! DEFINITION. The fields of a request word and the checks it must pass (rules R60, R62 to R64). An `Instr` needs no check of
its own: its operands have exactly their fields' widths. -/

namespace Sys2Proof

/-- OP, bits 47:44 (R60). -/
def opField (w : ReqWord) : BitVec 4 := w.extractLsb' 44 4

/-- RSVD, bits 43:41 (R60). -/
def rsvdField (w : ReqWord) : BitVec 3 := w.extractLsb' 41 3

/-- F, bit 40 (R60). -/
def fField (w : ReqWord) : Bool := w.getLsbD 40

/-- A, bits 39:32 (R60). -/
def aField (w : ReqWord) : Byte := w.extractLsb' 32 8

/-- B, bits 31:0 (R60). -/
def bField (w : ReqWord) : BitVec 32 := w.extractLsb' 0 32

/-- R64: the OP values 0x0 to 0x9 select a request, 0xA to 0xF none. -/
def opLegal (w : ReqWord) : Bool := decide ((opField w).toNat < 10)

/-- R63: RSVD is 0 in every request. -/
def rsvdZero (w : ReqWord) : Bool := decide (rsvdField w = 0)

/-- R62, the F column: only FRAME (OP 0x0) uses F. -/
def usesF (op : BitVec 4) : Bool := decide (op = 0x0)

/-- R62, the A column: FRAME, SET_CURSOR and SEND_CHAR use A. -/
def usesA (op : BitVec 4) : Bool := decide (op = 0x0) || decide (op = 0x3) || decide (op = 0x4)

/-- R62, the B column: SET_CURSOR, SEND_STRING and SEND_INT use B. -/
def usesB (op : BitVec 4) : Bool := decide (op = 0x3) || decide (op = 0x5) || decide (op = 0x6)

/-- R62, R63: every field the request does not use is 0. -/
def unusedZero (w : ReqWord) : Bool :=
  (usesF (opField w) || !fField w) &&
  (usesA (opField w) || decide (aField w = 0)) &&
  (usesB (opField w) || decide (bField w = 0))

/-- A request word the adapter accepts (R62 to R64). Decode.lean reads the same from the match and mask of rule R65. -/
def reqWellFormed (w : ReqWord) : Bool := opLegal w && rsvdZero w && unusedZero w

end Sys2Proof
end

