-- ==== Sys2Proof/Decode.lean ====
section
/-! DEFINITION. Decoding a request word (rule R66) from the match and mask of rule R65, and the encoder (rules R60 to R62). -/

namespace Sys2Proof

/-- Why a word is illegal (R159). -/
inductive DecodeFault where
  /-- OP is 0xA to 0xF (R64). -/
  | illegalOp
  /-- RSVD or a field the request does not use is nonzero (R63). -/
  | reservedNonzero
  deriving DecidableEq, Repr

/-- What a request word decodes to (R66). -/
inductive Decoded where
  | request (i : Instr)
  | illegal (why : DecodeFault)
  deriving DecidableEq, Repr

/-- The fault code (R159). -/
def faultCode : DecodeFault → Byte
  | .illegalOp => 1
  | .reservedNonzero => 2

/-- One row of rule R65. -/
structure EncRow where
  pattern : ReqWord
  mask : ReqWord
  deriving DecidableEq, Repr

/-- The ten rows of rule R65, in the order of OP. -/
def frameRow : EncRow := ⟨0x000000000000, 0xFE00FFFFFFFF⟩
@[inherit_doc frameRow] def initRow : EncRow := ⟨0x100000000000, 0xFFFFFFFFFFFF⟩
@[inherit_doc frameRow] def clearRow : EncRow := ⟨0x200000000000, 0xFFFFFFFFFFFF⟩
@[inherit_doc frameRow] def setCursorRow : EncRow := ⟨0x300000000000, 0xFF0000000000⟩
@[inherit_doc frameRow] def sendCharRow : EncRow := ⟨0x400000000000, 0xFF00FFFFFFFF⟩
@[inherit_doc frameRow] def sendStringRow : EncRow := ⟨0x500000000000, 0xFFFF00000000⟩
@[inherit_doc frameRow] def sendIntRow : EncRow := ⟨0x600000000000, 0xFFFF00000000⟩
@[inherit_doc frameRow] def shiftRightRow : EncRow := ⟨0x700000000000, 0xFFFFFFFFFFFF⟩
@[inherit_doc frameRow] def shiftLeftRow : EncRow := ⟨0x800000000000, 0xFFFFFFFFFFFF⟩
@[inherit_doc frameRow] def scrollLeftRow : EncRow := ⟨0x900000000000, 0xFFFFFFFFFFFF⟩

/-- All rows of rule R65. -/
def encRows : List EncRow :=
  [frameRow, initRow, clearRow, setCursorRow, sendCharRow, sendStringRow, sendIntRow, shiftRightRow, shiftLeftRow, scrollLeftRow]

/-- R65: a word selects the request when `(w & mask) == match`. -/
def EncRow.selects (r : EncRow) (w : ReqWord) : Bool := decide (w &&& r.mask = r.pattern)

/-- R66, after OP has chosen the row: the request, or RESERVED_NONZERO. -/
def checkRow (r : EncRow) (i : Instr) (w : ReqWord) : Decoded :=
  if r.selects w then .request i else .illegal .reservedNonzero

/-- `Decode` of rule R66, total on every 48-bit word: ILLEGAL_OP first, then RESERVED_NONZERO, then the operands. -/
def decode (w : ReqWord) : Decoded :=
  match (opField w).toNat with
  | 0 => checkRow frameRow (.frame (fField w) (aField w)) w
  | 1 => checkRow initRow .init w
  | 2 => checkRow clearRow .clear w
  | 3 => checkRow setCursorRow (.setCursor (bField w) (aField w)) w
  | 4 => checkRow sendCharRow (.sendChar (aField w)) w
  | 5 => checkRow sendStringRow (.sendString (bField w)) w
  | 6 => checkRow sendIntRow (.sendInt (bField w)) w
  | 7 => checkRow shiftRightRow .shiftRight w
  | 8 => checkRow shiftLeftRow .shiftLeft w
  | 9 => checkRow scrollLeftRow .scrollLeft w
  | _ => .illegal .illegalOp

/-- A word from its fields (R60): OP, RSVD = 0, F, A, B from the top. -/
def packFields (op : BitVec 4) (f : Bool) (a : Byte) (b : BitVec 32) : ReqWord :=
  op ++ (0 : BitVec 3) ++ BitVec.ofBool f ++ a ++ b

/-- The word of a request (R60 to R62). -/
def encode : Instr → ReqWord
  | .frame isData value => packFields 0x0 isData value 0
  | .init => packFields 0x1 false 0 0
  | .clear => packFields 0x2 false 0 0
  | .setCursor row col => packFields 0x3 false col row
  | .sendChar c => packFields 0x4 false c 0
  | .sendString ptr => packFields 0x5 false 0 ptr
  | .sendInt n => packFields 0x6 false 0 n
  | .shiftRight => packFields 0x7 false 0 0
  | .shiftLeft => packFields 0x8 false 0 0
  | .scrollLeft => packFields 0x9 false 0 0

/-- The row of rule R65 a request belongs to. -/
def rowOf : Instr → EncRow
  | .frame _ _ => frameRow
  | .init => initRow
  | .clear => clearRow
  | .setCursor _ _ => setCursorRow
  | .sendChar _ => sendCharRow
  | .sendString _ => sendStringRow
  | .sendInt _ => sendIntRow
  | .shiftRight => shiftRightRow
  | .shiftLeft => shiftLeftRow
  | .scrollLeft => scrollLeftRow

/-- The pseudo-instructions of rule R77: `CMD v` is `FRAME.C v`, `DATA v` is `FRAME.D v`. -/
def pseudoCmd (v : Byte) : Instr := .frame false v
@[inherit_doc pseudoCmd] def pseudoData (v : Byte) : Instr := .frame true v

/-- The request word the table's bits `w` stand for: a request is ONE 48-bit word (R59), so the table's numbering is the
word's own, and bits above `nbits` are 0. -/
def tableWord (nbits w : Nat) : ReqWord := BitVec.ofNat 48 (w % 2 ^ nbits)

/-- What the decoder reads from the table's bits. -/
def decodeTableWord (nbits w : Nat) : Option Instr :=
  match decode (tableWord nbits w) with
  | .request i => some i
  | .illegal _ => none

end Sys2Proof
end

