-- ==== Sys2Proof/Config.lean ====
section
/-! DEFINITION. What the spec leaves open (rule R8): the parameters and draws a model may not fix. Each is a constant with no
body, so no proof can see its value and every theorem holds for all of them. -/

namespace Sys2Proof

/-- XFER_RESULT (R163): how one transmit ended. -/
inductive XferResult where
  | success
  | failure
  | timeout
  deriving DecidableEq, Repr, Inhabited

/-- SENDINT_ZERO_EMITS_DIGIT (R123, D14): whether SEND_INT of 0 sends the character '0'. Free: log entry 7. -/
opaque Config.sendIntZeroEmitsDigit : Bool

/-- SENDINT_NEG (R124, D15): the bytes SEND_INT of a negative `n` sends. Free: log entry 8. -/
opaque Config.sendIntNeg : BitVec 32 → List Byte

/-- BUS_BYTE_TIME (R50, R202, D26): how long the expander holds each byte of a frame. Free: log entry 13. -/
opaque Config.busByteTime : Nat

/-- XFER_RESULT, the draw numbered `k` (R163). Free: log entry 9. -/
opaque Config.xferResult : Nat → XferResult

/-- The expander's pins after a transmit that did not succeed, the draw numbered `k` (R163: "unknown"). Free: log entry 10. -/
opaque Config.unknownPins : Nat → Byte

/-- XFER_DURATION in microseconds less the one that makes it positive, the draw numbered `k` (R164). Free: log entry 12. -/
opaque Config.xferTime : Nat → Nat

/-- What DELAY_ACTUAL adds to the stated delay, in microseconds, the draw numbered `k` (R165). Free: log entry 12. -/
opaque Config.delayExtra : Nat → Nat

/-- All draws of one emitted event (R8). The meanings take one as an argument; the step supplies it from `Config.draw`. -/
structure Draw where
  /-- XFER_RESULT of a BusWrite (R163). -/
  result : XferResult
  /-- The pins after a BusWrite that did not succeed (R163). -/
  pins : Byte
  /-- XFER_DURATION of a BusWrite, less one microsecond (R164). -/
  xferTime : Nat
  /-- DELAY_ACTUAL of a Delay, less the stated time, in microseconds (R165). -/
  delayExtra : Nat
  deriving DecidableEq, Repr

/-- The draws of the event numbered `k` since reset. -/
def Config.draw (k : Nat) : Draw where
  result := Config.xferResult k
  pins := Config.unknownPins k
  xferTime := Config.xferTime k
  delayExtra := Config.delayExtra k

end Sys2Proof
end

