-- ==== Sys2Proof/Machine/State.lean ====
section
/-! DEFINITION. Every piece of state the spec names, as plain data, the reasons a step can stop, and the state after reset
(rules R18, R24, R27, R30, R141, R181 to R185). -/

namespace Sys2Proof.Machine

/-- The four bytes of a frame, sent in the order `b0` to `b3` as one transaction (R46, R48). -/
structure BusFrame where
  b0 : Byte
  b1 : Byte
  b2 : Byte
  b3 : Byte
  deriving DecidableEq, Repr

/-- An event of the output stream (R10, R14). -/
inductive Event where
  /-- One transmit of four bytes to the device at `addr`, in the 8-bit convention (R42, R46). -/
  | busWrite (addr : Byte) (f : BusFrame)
  /-- One blocking delay of at least `ms` milliseconds (R165). -/
  | delay (ms : Nat)
  deriving DecidableEq, Repr

/-- Whether a request is executing (R18). -/
inductive Mode where
  | idle
  | busy
  deriving DecidableEq, Repr

/-- The sticky fault register (R24). -/
structure FaultReg where
  /-- 0 none, 1 ILLEGAL_OP, 2 RESERVED_NONZERO (R159). -/
  code : BitVec 8
  /-- The rejected request word (R159). -/
  word : ReqWord
  deriving DecidableEq, Repr

/-- Which half of a byte the next latched nibble is (R141). -/
inductive Phase where
  | hi
  | lo
  deriving DecidableEq, Repr

/-- The controller view, an observer of the output (R141). While `valid` is false every other field has no value: readers go
through `ControllerView.read`, which then answers none. -/
structure ControllerView where
  valid : Bool
  /-- Last byte seen on the expander outputs. -/
  pins : Byte
  phase : Phase
  /-- The high nibble, while `phase` is `lo`. -/
  held : Nibble
  /-- RS of the held nibble. -/
  heldRs : Bool
  /-- DDRAM address of the next data write. -/
  ac : BitVec 7
  /-- The 80 stored character codes: 0x00 to 0x27, then 0x40 to 0x67. -/
  ddram : Vector Byte 80
  /-- Positions the display window has moved right. -/
  shift : Fin 40
  /-- Entry mode: increment. -/
  ID : Bool
  /-- Entry mode: display shift on write. -/
  S : Bool
  /-- Display on. -/
  D : Bool
  /-- Cursor on. -/
  C : Bool
  /-- Blink on. -/
  B : Bool
  /-- 8-bit bus. -/
  DL : Bool
  /-- Two lines. -/
  N : Bool
  /-- Large font. -/
  F : Bool
  deriving DecidableEq, Repr

/-- The view after reset: invalid (R183). The other fields have no value then (R141); what they hold is log entry 14. -/
def ControllerView.reset : ControllerView where
  valid := false
  pins := 0
  phase := .hi
  held := 0
  heldRs := false
  ac := 0
  ddram := Vector.replicate 80 0
  shift := 0
  ID := false
  S := false
  D := false
  C := false
  B := false
  DL := false
  N := false
  F := false

/-- Host memory: the admitted addresses with their bytes, addresses strictly rising. An address it does not list is one
HOSTMEM_ADMITS does not admit (R43): log entry 5. -/
abbrev Memory := List Host.Cell

/-- The whole machine: adapter, request port, host memory, output stream, expander, controller view. -/
structure State where
  /-- R18. -/
  mode : Mode
  /-- The request being executed, meaningful while BUSY (R18). -/
  op : Option Instr
  /-- Events of the current request not yet emitted (R18, R21). -/
  q : List Event
  /-- Next host address to read, SEND_STRING only (R18, R19). -/
  ptr : HostAddr
  /-- R24. -/
  fault : FaultReg
  /-- Words the host has presented and the adapter has not taken, oldest first (R22, R177). -/
  port : List ReqWord
  /-- R43. -/
  hostMem : Memory
  /-- The output event stream, oldest first (R11). -/
  events : List Event
  /-- The expander's output latch: none until the first byte is transmitted (R30, R50, R184). -/
  expander : Option Byte
  /-- R141. -/
  view : ControllerView
  /-- The model's own: whether every transmit of the INIT in progress has succeeded so far (R142). -/
  initOk : Bool
  /-- The model's own: how many draws have been taken (R8). -/
  draws : Nat
  /-- The model's own: microseconds the emitted events have taken (R165, R203). -/
  elapsed : Nat
  deriving DecidableEq, Repr

/-- The three places where rule R21 gives the adapter "no step". None is an error of an accepted request; each is safe: the
model stops where the block stops. Log entry 4. -/
inductive Fault where
  /-- Raised by the sequencer when it is IDLE, not faulted, and no request is presented: it waits for the host (R21). This is
  the good end of a run (R23). Safe. -/
  | noRequest
  /-- Raised by the sequencer once `fault.code` is nonzero: stuck for good, until reset (R161). Safe. -/
  | faulted
  /-- Raised by SEND_STRING's read of an address host memory does not admit: stuck (R43). Safe. -/
  | unadmittedRead (addr : HostAddr)
  deriving DecidableEq, Repr

/-- Refusals. -/
inductive Refusal where
  /-- Raised by an arm of exec whose instruction has no meaning yet. Safe. No arm raises it. -/
  | notModelled (mnemonic : String)
  deriving DecidableEq, Repr

/-- The machine after reset (R181 to R185). -/
def State.reset : State where
  mode := .idle
  op := none
  q := []
  ptr := 0
  fault := ⟨0, 0⟩
  port := []
  hostMem := []
  events := []
  expander := none
  view := ControllerView.reset
  initOk := false
  draws := 0
  elapsed := 0

end Sys2Proof.Machine
end

