-- ==== Sys2Proof/Machine/Params.lean ====
section
/-! DEFINITION. The fixed constants of the adapter (rules R7, R8, R26, R71): read-only, the same from reset onward. -/

namespace Sys2Proof.Machine

/-- DEV_ADDR8: the expander's bus address in the 8-bit convention (R7, R42). -/
def devAddr8 : Byte := 0x4E
/-- CTL_CMD_EH (R7, R69). -/
def ctlCmdEH : Byte := 0x0C
/-- CTL_CMD_EL (R7, R69). -/
def ctlCmdEL : Byte := 0x08
/-- CTL_DAT_EH (R7, R69). -/
def ctlDatEH : Byte := 0x0D
/-- CTL_DAT_EL (R7, R69). -/
def ctlDatEL : Byte := 0x09
/-- FRAME_LEN: bytes per logical byte (R7). -/
def frameLen : Nat := 4
/-- ROWS (R7). -/
def rows : Nat := 2
/-- COLS (R7). -/
def cols : Nat := 16
/-- ROW_BASE0 (R7, R106). -/
def rowBase0 : Byte := 0x80
/-- ROW_BASE1 (R7, R106). -/
def rowBase1 : Byte := 0xC0
/-- STD_DELAY_MS (R7). -/
def stdDelayMs : Nat := 1
/-- SCROLL_COUNT (R7, R137). -/
def scrollCount : Nat := 40
/-- SCROLL_DELAY_MS (R7, R137). -/
def scrollDelayMs : Nat := 750
/-- XFER_TIMEOUT_MS (R7, R164): the transport's own bound. No rule of the adapter's output depends on it. -/
def xferTimeoutMs : Nat := 100
/-- DIGIT_BUF: the capacity of SEND_INT's digit store (R8, R29, D33). -/
def digitBuf : Nat := 10

/-- CMD_RESET30 (R71). -/
def cmdReset30 : Byte := 0x30
/-- CMD_0x20, which the source labels "return home" (R71, C3). -/
def cmd0x20 : Byte := 0x20
/-- CMD_FUNCSET28 (R71). -/
def cmdFuncSet28 : Byte := 0x28
/-- CMD_DISPON0C (R71). -/
def cmdDispOn0C : Byte := 0x0C
/-- CMD_CLEAR01 (R71). -/
def cmdClear01 : Byte := 0x01
/-- CMD_ENTRY06 (R71). -/
def cmdEntry06 : Byte := 0x06
/-- CMD_SHIFTR1C (R71). -/
def cmdShiftR1C : Byte := 0x1C
/-- CMD_SHIFTL18 (R71). -/
def cmdShiftL18 : Byte := 0x18

/-- The power-settle delay that opens INIT (R98). -/
def powerSettleMs : Nat := 50

/-- The INIT table (R7, R98): each command byte with the delay after it in milliseconds. -/
def initTable : List (Byte × Nat) :=
  [(cmdReset30, 5), (cmdReset30, 1), (cmdReset30, 10), (cmd0x20, 1), (cmdFuncSet28, 1), (cmdDispOn0C, 1),
   (cmdClear01, 1), (cmdEntry06, 100)]

end Sys2Proof.Machine
end

