-- ==== Sys2Proof/Machine/Operands.lean ====
section
/-! DEFINITION. Every operand form and every value a request computes from its operands: the nibble split (R87), the cursor
byte (R107 to R109), the decimal bytes of SEND_INT (R121 to R127). The adapter has no other arithmetic (R6). -/

namespace Sys2Proof.Machine

/-- `high = v & 0xF0` (R87). -/
def highNibble (v : Byte) : Byte := v &&& 0xF0

/-- `low = (v & 0x0F) << 4` (R87). -/
def lowNibble (v : Byte) : Byte := (v &&& 0x0F) <<< 4

/-- The row test: equality with zero and nothing else (R108). -/
def rowBase (row : BitVec 32) : Byte := if row = 0 then rowBase0 else rowBase1

/-- The set-address command byte `col | base` (R107); the column is not validated (R109). -/
def cursorByte (row : BitVec 32) (col : Byte) : Byte := col ||| rowBase row

/-- R121's loop: `digits` collects `m mod 10` in front while `m > 0`. `fuel` is the digit store's capacity. -/
def digitLoop : Nat → Nat → List Nat → List Nat
  | 0, _, acc => acc
  | fuel + 1, m, acc => if m = 0 then acc else digitLoop fuel (m / 10) (m % 10 :: acc)

/-- The decimal digits of `m`, most significant first, without leading zeros (R121, R122). -/
def digits (m : Nat) : List Nat := digitLoop digitBuf m []

/-- Digit `d` as the data byte `0x30 + d` (R126). -/
def digitByte (d : Nat) : Byte := 0x30 + BitVec.ofNat 8 d

/-- The data bytes of SEND_INT for the operand `n` (R121), with the two parameters of rule R8 as arguments (R123, R124). -/
def intBytesWith (zeroEmits : Bool) (neg : BitVec 32 → List Byte) (n : BitVec 32) : List Byte :=
  if 0 < n.toInt then (digits n.toNat).map digitByte
  else if n = 0 then (if zeroEmits then [0x30] else [])
  else neg n

/-- The data bytes of SEND_INT with the machine's own parameters. -/
def intBytes (n : BitVec 32) : List Byte := intBytesWith Config.sendIntZeroEmitsDigit Config.sendIntNeg n

end Sys2Proof.Machine
end

