-- ==== Sys2Proof/Machine/Framer.lean ====
section
/-! DEFINITION. The byte framer (rules R86 to R94): a pure, total function from a byte and a mode to the four bytes of a
frame, not specialised for any byte (C1). -/

namespace Sys2Proof.Machine

/-- The control nibble with E = 1 (R69). -/
def enableHigh (isData : Bool) : Byte := if isData then ctlDatEH else ctlCmdEH

/-- The control nibble with E = 0 (R69). -/
def enableLow (isData : Bool) : Byte := if isData then ctlDatEL else ctlCmdEL

/-- `Frame(v, isData)` of rule R88. -/
def frame (v : Byte) (isData : Bool) : BusFrame where
  b0 := highNibble v ||| enableHigh isData
  b1 := highNibble v ||| enableLow isData
  b2 := lowNibble v ||| enableHigh isData
  b3 := lowNibble v ||| enableLow isData

/-- The bytes of a frame in the order they are transmitted (R46, R48). -/
def frameBytes (f : BusFrame) : List Byte := [f.b0, f.b1, f.b2, f.b3]

/-- The byte of a frame, `{b0[7:4], b2[7:4]}` (R93). -/
def frameValue (f : BusFrame) : Byte := f.b0.extractLsb' 4 4 ++ f.b2.extractLsb' 4 4

/-- The mode of a frame, `b0[0]` (R93). -/
def frameIsData (f : BusFrame) : Bool := f.b0.getLsbD 0

/-- Four bytes the framer can produce (R93). -/
def isFramed (f : BusFrame) : Bool := decide (f = frame (frameValue f) (frameIsData f))

/-- The event `Send(v, isData)` emits (R10). -/
def send (v : Byte) (isData : Bool) : Event := .busWrite devAddr8 (frame v isData)

/-- The pin values of one frame, each with the time the expander holds it (R50, R202). -/
def pinSchedule (f : BusFrame) : List (Byte × Nat) := (frameBytes f).map fun b => (b, Config.busByteTime)

/-- The class of a control byte by `b & 0x0F` (R70): E and RS; none for a byte the framer never produces. -/
def controlClass (b : Byte) : Option (Bool × Bool) :=
  if b &&& 0x0F = ctlCmdEH then some (true, false)
  else if b &&& 0x0F = ctlCmdEL then some (false, false)
  else if b &&& 0x0F = ctlDatEH then some (true, true)
  else if b &&& 0x0F = ctlDatEL then some (false, true)
  else none

end Sys2Proof.Machine
end

