-- ==== Sys2Proof/Machine/Ops.lean ====
section
/-! DEFINITION. The operations over the state that every meaning shares: host memory, accepting a request, raising a fault and
its only undoing (reset), and what the host does between steps. -/

namespace Sys2Proof.Machine

/-! Host memory (R43). -/

/-- The byte at an address, none where the address is not admitted. -/
def Memory.readNat : Memory → Nat → Option Byte
  | [], _ => none
  | c :: m, a => if c.1 = a then some c.2 else Memory.readNat m a

/-- `MemRead(addr, 1)` (R43): none where HOSTMEM_ADMITS(addr) is false. It changes nothing. -/
def Memory.read (m : Memory) (addr : HostAddr) : Option Byte := Memory.readNat m addr.toNat

/-- HOSTMEM_ADMITS (R8, R43): the addresses the launch has listed. -/
def Memory.admits (m : Memory) (addr : HostAddr) : Bool := (Memory.read m addr).isSome

/-- Put a byte at an address, keeping addresses strictly rising. -/
def Memory.writeNat : Memory → Nat → Byte → Memory
  | [], a, b => [(a, b)]
  | c :: m, a, b =>
    if a < c.1 then (a, b) :: c :: m else if c.1 = a then (a, b) :: m else c :: Memory.writeNat m a b

/-- The host places a byte in its memory (R177, R189). The block has no such operation (R45). -/
def Memory.write (m : Memory) (addr : HostAddr) (b : Byte) : Memory := Memory.writeNat m addr.toNat b

/-- The canonical form: addresses strictly rising, each a 32-bit address. -/
abbrev Memory.wf (m : Memory) : Prop := m.Pairwise (fun x y => x.1 < y.1) ∧ ∀ c ∈ m, c.1 < 2 ^ 32

/-! Accepting a request. -/

/-- R21: `s.op <- d; s.q <- InitialExpansion(d); s.mode <- BUSY`. -/
def acceptRequest (i : Instr) (es : List Event) (s : State) : State :=
  { s with op := some i, q := es, mode := .busy }

/-- R142: from an INIT's acceptance the view is invalid, and its transmits are watched for a failure (log entry 18). -/
def beginInit (s : State) : State :=
  { s with view := { s.view with valid := false }, initOk := true }

/-! Faults. -/

/-- `raise Fault(code)` at the acceptance of the word `w` (R159, R160, R167): only the fault register changes. -/
def raiseFault (why : DecodeFault) (w : ReqWord) (s : State) : State :=
  { s with fault := ⟨faultCode why, w⟩ }

/-- Reset of the block, the only event that clears a fault (R168, R181 to R185): the adapter's state as after power-on, the
running request abandoned, host memory unchanged, the view invalid, nothing emitted. Draws and time go on (log entry 21). -/
def State.restart (s : State) : State :=
  { State.reset with
    hostMem := s.hostMem
    view := { s.view with valid := false }
    draws := s.draws
    elapsed := s.elapsed }

/-! The host, between steps. -/

/-- The host presents a request word; the port holds it until the adapter takes it (R22, R177). -/
def State.present (w : ReqWord) (s : State) : State := { s with port := s.port ++ [w] }

/-- The host places a byte in its own memory (R177, R189). -/
def State.hostStore (addr : HostAddr) (b : Byte) (s : State) : State := { s with hostMem := Memory.write s.hostMem addr b }

/-- The controller loses power and comes back: its state is indeterminate again until an INIT that starts later completes
(R28, R142, R190). The adapter sees nothing of it. -/
def State.controllerPowerUp (s : State) : State := { s with view := { s.view with valid := false }, initOk := false }

/-- Output line Pi of the expander carries bit i of the byte last transmitted (R50); no value before the first (R184). -/
def State.expanderLine (s : State) (i : Fin 8) : Option Bool := s.expander.map fun b => b.getLsbD i.val

/-- Place a request word where the next step takes its request: presented first, with the adapter IDLE and not faulted. -/
def placeRequest (w : ReqWord) (s : State) : State :=
  { s with mode := .idle, q := [], fault := ⟨0, 0⟩, port := w :: s.port }

end Sys2Proof.Machine
end

