-- ==== Sys2Proof/Machine/Cursor.lean ====
section
/-! DEFINITION. SET_CURSOR (rules R106 to R112). -/

namespace Sys2Proof.Machine

/-- SET_CURSOR's expansion (R107). -/
def cursorEvents (row : BitVec 32) (col : Byte) : List Event := [send (cursorByte row col) false, .delay stdDelayMs]

/-- SET_CURSOR (R107), accepted as R21 says. -/
def execSetCursor (row : BitVec 32) (col : Byte) (s : State) : Host.Outcome State Fault Refusal :=
  .next (acceptRequest (.setCursor row col) (cursorEvents row col) s)

end Sys2Proof.Machine
end

