-- ==== Sys2Proof/Machine/Display.lean ====
section
/-! DEFINITION. CLEAR, SHIFT_RIGHT, SHIFT_LEFT and SCROLL_LEFT (rules R131 to R140). -/

namespace Sys2Proof.Machine

/-- A command frame with its settle delay. -/
def commandEvents (v : Byte) (ms : Nat) : List Event := [send v false, .delay ms]

/-- CLEAR's expansion (R131). -/
def clearEvents : List Event := commandEvents cmdClear01 stdDelayMs

/-- CLEAR (R131), accepted as R21 says. -/
def execClear (s : State) : Host.Outcome State Fault Refusal := .next (acceptRequest .clear clearEvents s)

/-- SHIFT_RIGHT's expansion (R133). -/
def shiftRightEvents : List Event := commandEvents cmdShiftR1C stdDelayMs

/-- SHIFT_RIGHT (R133), accepted as R21 says. -/
def execShiftRight (s : State) : Host.Outcome State Fault Refusal := .next (acceptRequest .shiftRight shiftRightEvents s)

/-- SHIFT_LEFT's expansion (R135). -/
def shiftLeftEvents : List Event := commandEvents cmdShiftL18 stdDelayMs

/-- SHIFT_LEFT (R135), accepted as R21 says. -/
def execShiftLeft (s : State) : Host.Outcome State Fault Refusal := .next (acceptRequest .shiftLeft shiftLeftEvents s)

/-- R137's loop: `count` times the shift-left frame and the scroll delay. -/
def scrollLoop : Nat → List Event
  | 0 => []
  | count + 1 => commandEvents cmdShiftL18 scrollDelayMs ++ scrollLoop count

/-- SCROLL_LEFT's expansion (R137, R138): no D(1) in it (C5). -/
def scrollEvents : List Event := scrollLoop scrollCount

/-- SCROLL_LEFT (R137), accepted as R21 says. -/
def execScrollLeft (s : State) : Host.Outcome State Fault Refusal := .next (acceptRequest .scrollLeft scrollEvents s)

end Sys2Proof.Machine
end

