-- ==== Sys2Proof/Machine/Frame.lean ====
section
/-! DEFINITION. FRAME (rule R89). -/

namespace Sys2Proof.Machine

/-- FRAME's expansion (R89): one frame, no delay. -/
def frameEvents (isData : Bool) (value : Byte) : List Event := [send value isData]

/-- FRAME (R89), accepted as R21 says. -/
def execFrame (isData : Bool) (value : Byte) (s : State) : Host.Outcome State Fault Refusal :=
  .next (acceptRequest (.frame isData value) (frameEvents isData value) s)

end Sys2Proof.Machine
end

