-- ==== Sys2Proof/Machine/Init.lean ====
section
/-! DEFINITION. INIT (rules R96 to R105). -/

namespace Sys2Proof.Machine

/-- INIT's expansion (R97): the power-settle delay, then each command byte of the table with its delay. -/
def initEvents : List Event :=
  .delay powerSettleMs :: initTable.flatMap fun p => [send p.1 false, .delay p.2]

/-- INIT (R97), accepted as R21 says; the view is invalid while it runs (R142). -/
def execInit (s : State) : Host.Outcome State Fault Refusal :=
  .next (beginInit (acceptRequest .init initEvents s))

end Sys2Proof.Machine
end

