-- ==== Sys2Proof/Machine/Text.lean ====
section
/-! DEFINITION. SEND_CHAR, SEND_STRING and SEND_INT (rules R113 to R130). -/

namespace Sys2Proof.Machine

/-- SEND_CHAR's expansion (R113): one data frame, no delay (R114). -/
def charEvents (c : Byte) : List Event := [send c true]

/-- SEND_CHAR (R113), accepted as R21 says. -/
def execSendChar (c : Byte) (s : State) : Host.Outcome State Fault Refusal :=
  .next (acceptRequest (.sendChar c) (charEvents c) s)

/-- SEND_STRING (R117), accepted as R21 says: the initial expansion is empty and `ptr` is loaded from the operand. -/
def execSendString (ptr : HostAddr) (s : State) : Host.Outcome State Fault Refusal :=
  .next { acceptRequest (.sendString ptr) [] s with ptr := ptr }

/-- The two events of one character of a string: the frame, then the 1 ms delay (R116, R117). -/
def stringCharEvents (b : Byte) : List Event := [send b true, .delay stdDelayMs]

/-- SEND_STRING's refill (R21, R117): the next byte, read when the queue is empty. 0x00 completes the request with no event
(R118); an address not admitted leaves the sequencer stuck (R43). `ptr` wraps mod 2^32 (R19). -/
def refillString (s : State) : Host.Outcome State Fault Refusal :=
  match Memory.read s.hostMem s.ptr with
  | none => .fault (.unadmittedRead s.ptr)
  | some b => .next (if b = 0x00 then { s with mode := .idle } else { s with q := stringCharEvents b, ptr := s.ptr + 1 })

/-- SEND_INT's expansion for its data bytes: the frames back to back, then one delay (R121, R125, R128). -/
def intEventsOf (bytes : List Byte) : List Event := (bytes.map fun b => send b true) ++ [.delay stdDelayMs]

/-- SEND_INT's expansion (R121). -/
def intEvents (n : BitVec 32) : List Event := intEventsOf (intBytes n)

/-- SEND_INT (R121), accepted as R21 says. -/
def execSendInt (n : BitVec 32) (s : State) : Host.Outcome State Fault Refusal :=
  .next (acceptRequest (.sendInt n) (intEvents n) s)

end Sys2Proof.Machine
end

