-- ==== Sys2Proof/Machine/Expansion.lean ====
section
/-! DEFINITION. Expansions as data: what each request puts in the queue (rule R21), what a string emits (R117, R119), and the
lower bound of an expansion's delays (R201). -/

namespace Sys2Proof.Machine

/-- `InitialExpansion(d)` of rule R21: the whole expansion of every request but SEND_STRING, whose initial one is empty. -/
def initialExpansion : Instr → List Event
  | .frame isData value => frameEvents isData value
  | .init => initEvents
  | .clear => clearEvents
  | .setCursor row col => cursorEvents row col
  | .sendChar c => charEvents c
  | .sendString _ => []
  | .sendInt n => intEvents n
  | .shiftRight => shiftRightEvents
  | .shiftLeft => shiftLeftEvents
  | .scrollLeft => scrollEvents

/-- The events of a string of characters (R117, R119): a frame and a delay for each. -/
def stringEvents (chars : List Byte) : List Event := chars.flatMap stringCharEvents

/-- Host memory holds `chars` from `p` on (with wrap), then a 0x00 byte, all admitted (R116, R177). -/
def holdsString (m : Memory) (p : HostAddr) : List Byte → Bool
  | [] => decide (Memory.read m p = some 0x00)
  | c :: cs => decide (Memory.read m p = some c) && decide (c ≠ 0x00) && holdsString m (p + 1) cs

/-- The stated milliseconds of an event: 0 for a frame (R201). -/
def delayOf : Event → Nat
  | .busWrite _ _ => 0
  | .delay ms => ms

/-- The delay events of an expansion, in milliseconds, in order (R201). -/
def delayList : List Event → List Nat
  | [] => []
  | .busWrite _ _ :: es => delayList es
  | .delay ms :: es => ms :: delayList es

/-- The delay lower-bound total of an expansion, in milliseconds (R201). -/
def delayTotal : List Event → Nat
  | [] => 0
  | e :: es => delayOf e + delayTotal es

/-- The frames of an expansion (R201). -/
def frameCount : List Event → Nat
  | [] => 0
  | .busWrite _ _ :: es => frameCount es + 1
  | .delay _ :: es => frameCount es

end Sys2Proof.Machine
end

