-- ==== Sys2Proof/Machine/Dispatch.lean ====
section
/-! DEFINITION. One arm per request, each one direct call of its meaning. -/

namespace Sys2Proof.Machine

/-- The acceptance of a decoded request (R21). The sequencer calls it only where rule R21 accepts: IDLE and not faulted. -/
def exec (i : Instr) (s : State) : Host.Outcome State Fault Refusal :=
  match i with
  | .frame isData value => Sys2Proof.Machine.execFrame isData value s
  | .init => Sys2Proof.Machine.execInit s
  | .clear => Sys2Proof.Machine.execClear s
  | .setCursor row col => Sys2Proof.Machine.execSetCursor row col s
  | .sendChar c => Sys2Proof.Machine.execSendChar c s
  | .sendString ptr => Sys2Proof.Machine.execSendString ptr s
  | .sendInt n => Sys2Proof.Machine.execSendInt n s
  | .shiftRight => Sys2Proof.Machine.execShiftRight s
  | .shiftLeft => Sys2Proof.Machine.execShiftLeft s
  | .scrollLeft => Sys2Proof.Machine.execScrollLeft s

end Sys2Proof.Machine
end

