-- ==== Sys2Proof/Machine/Flags.lean ====
section
/-! DEFINITION. Every flag computation the spec gives. The adapter has no flags (R20); the flags are the controller view's, set
by three command bytes (R151) and by clear (R148). -/

namespace Sys2Proof.Machine

/-- 0x06: `ID <- 1, S <- 0` (R151). -/
def ControllerView.entryMode (c : ControllerView) : ControllerView := { c with ID := true, S := false }

/-- 0x0C: `D <- 1, C <- 0, B <- 0` (R151). -/
def ControllerView.displayOn (c : ControllerView) : ControllerView := { c with D := true, C := false, B := false }

/-- 0x28: `DL <- 0, N <- 1, F <- 0` (R151). -/
def ControllerView.functionSet (c : ControllerView) : ControllerView := { c with DL := false, N := true, F := false }

/-- Clear sets `ID <- 1` (R148). -/
def ControllerView.clearFlags (c : ControllerView) : ControllerView := { c with ID := true }

end Sys2Proof.Machine
end

