-- ==== Sys2Proof/Machine/View.lean ====
section
/-! DEFINITION. The controller view (rules R141 to R156): the informative observer of the bytes the expander puts on the
controller's pins. Log entries 15 to 18 say what it assumes. -/

namespace Sys2Proof.Machine

/-- A field of the view, which has a value only while the view is valid (R28, R141). -/
def ControllerView.read {α : Type} (c : ControllerView) (field : ControllerView → α) : Option α :=
  if c.valid then some (field c) else none

/-- `valid <- false` (R153). -/
def ControllerView.invalidate (c : ControllerView) : ControllerView := { c with valid := false }

/-- The place of a DDRAM address among the 80 (R141): 0x00 to 0x27 then 0x40 to 0x67; none outside the two row spans. -/
def ddramIndex (a : BitVec 7) : Option (Fin 80) :=
  if h : a.toNat < 0x28 then some ⟨a.toNat, by omega⟩
  else if h2 : 0x40 ≤ a.toNat ∧ a.toNat < 0x68 then some ⟨a.toNat - 24, by omega⟩
  else none

/-- The address after `a` (R147, increment): wraps 0x27 to 0x40 and 0x67 to 0x00. -/
def nextAddr (a : BitVec 7) : BitVec 7 := if a = 0x27 then 0x40 else if a = 0x67 then 0x00 else a + 1

/-- The address before `a` (R147, decrement). -/
def prevAddr (a : BitVec 7) : BitVec 7 := if a = 0x40 then 0x27 else if a = 0x00 then 0x67 else a - 1

/-- Data write (R147). -/
def ControllerView.dataWrite (c : ControllerView) (v : Byte) : ControllerView :=
  match ddramIndex c.ac with
  | none => c.invalidate
  | some i =>
    { c with
      ddram := c.ddram.set i v
      ac := if c.ID then nextAddr c.ac else prevAddr c.ac
      valid := c.valid && !c.S }

/-- Clear, 0x01 (R148). -/
def ControllerView.clearDisplay (c : ControllerView) : ControllerView :=
  { c.clearFlags with ac := 0x00, ddram := Vector.replicate 80 0x20, shift := 0 }

/-- Display shift right, 0x1C (R149). -/
def ControllerView.shiftRight (c : ControllerView) : ControllerView := { c with shift := c.shift + 1 }

/-- Display shift left, 0x18 (R149). -/
def ControllerView.shiftLeft (c : ControllerView) : ControllerView := { c with shift := c.shift - 1 }

/-- Set DDRAM address (R150). -/
def ControllerView.setAddr (c : ControllerView) (a : BitVec 7) : ControllerView :=
  if (ddramIndex a).isSome then { c with ac := a } else c.invalidate

/-- `Execute(v, rs)` (R146): a data write, a command byte of the set M, or any other byte, which invalidates the view. -/
def ControllerView.execute (c : ControllerView) (v : Byte) (rs : Bool) : ControllerView :=
  if rs then c.dataWrite v
  else if v = cmdClear01 then c.clearDisplay
  else if v = cmdShiftR1C then c.shiftRight
  else if v = cmdShiftL18 then c.shiftLeft
  else if v.getLsbD 7 then c.setAddr (v.extractLsb' 0 7)
  else if v = cmdEntry06 then c.entryMode
  else if v = cmdDispOn0C then c.displayOn
  else if v = cmdFuncSet28 then c.functionSet
  else c.invalidate

/-- `Latch(n, rs)` (R144): the high nibble is held, the low one completes a byte. -/
def ControllerView.latch (c : ControllerView) (n : Nibble) (rs : Bool) : ControllerView :=
  match c.phase with
  | .hi => { c with held := n, heldRs := rs, phase := .lo }
  | .lo =>
    if c.heldRs = rs then { c.execute (c.held ++ n) rs with phase := .hi }
    else { c.invalidate with phase := .hi }

/-- One byte on the pins (R143): a nibble is latched when E falls. Nothing happens while the view is invalid. -/
def ControllerView.seeByte (c : ControllerView) (b : Byte) : ControllerView :=
  if c.valid then
    { (if c.pins.getLsbD 2 && !b.getLsbD 2 then c.latch (b.extractLsb' 4 4) (b.getLsbD 0) else c) with pins := b }
  else c

/-- The four bytes of a frame, in order (R143). -/
def ControllerView.seeFrame (c : ControllerView) (f : BusFrame) : ControllerView :=
  (((c.seeByte f.b0).seeByte f.b1).seeByte f.b2).seeByte f.b3

/-- The source's post-INIT state (R142), assumed (D12). The held nibble has no value while the phase is HI. -/
def ControllerView.afterInit (c : ControllerView) : ControllerView :=
  { c with
    valid := true
    pins := 0x68
    phase := .hi
    ac := 0x00
    ddram := Vector.replicate 80 0x20
    shift := 0
    ID := true
    S := false
    D := true
    C := false
    B := false
    DL := false
    N := true
    F := false }

/-- The character code shown at display row `r`, column `col` (R154): none while the view is invalid or the display is off.
Its glyph is the controller's character generator's, which no source gives. -/
def ControllerView.visible (c : ControllerView) (r : Fin 2) (col : Fin 16) : Option Byte :=
  if c.valid && c.D then
    (ddramIndex (BitVec.ofNat 7 (0x40 * r.val + (col.val + 40 - c.shift.val) % 40))).map fun i => c.ddram.get i
  else none

end Sys2Proof.Machine
end

