-- ==== Sys2Proof/Machine/Sequencer.lean ====
section
/-! DEFINITION. The step relation of rule R21: emitting one event with its draws, refilling a string, completing a request,
taking the next request word. -/

namespace Sys2Proof.Machine

/-- Whether the transmit succeeded (R163). -/
def transmitOk (d : Draw) : Bool := decide (d.result = .success)

/-- XFER_DURATION in microseconds: finite and positive (R164). -/
def transmitMicros (d : Draw) : Nat := d.xferTime + 1

/-- DELAY_ACTUAL in microseconds: at least the stated milliseconds (R165). -/
def delayMicros (ms : Nat) (d : Draw) : Nat := ms * 1000 + d.delayExtra

/-- R18: an INIT is the request being executed, so the view is not updated (R142). -/
def runsInit (s : State) : Bool := decide (s.op = some .init)

/-- What a transmit does to the view (R142, R143, R153): invalid if it did not succeed; nothing during INIT; else its bytes. -/
def viewAfterTransmit (d : Draw) (f : BusFrame) (s : State) : ControllerView :=
  if transmitOk d then (if runsInit s then s.view else s.view.seeFrame f) else s.view.invalidate

/-- What a delay's completion does to the view (R142, R155): nothing, but for INIT's last event if every transmit succeeded. -/
def viewAfterDelay (rest : List Event) (s : State) : ControllerView :=
  if runsInit s && rest.isEmpty && s.initOk then s.view.afterInit else s.view

/-- `Emit(BusWrite(addr, f))` (R46, R50, R163): the adapter goes on whatever the result; the pins hold the last byte, or
anything after a transmit that did not succeed. -/
def emitBusWrite (d : Draw) (addr : Byte) (f : BusFrame) (rest : List Event) (s : State) : State :=
  { s with
    q := rest
    events := s.events ++ [.busWrite addr f]
    expander := some (if transmitOk d then f.b3 else d.pins)
    view := viewAfterTransmit d f s
    initOk := s.initOk && transmitOk d
    draws := s.draws + 1
    elapsed := s.elapsed + transmitMicros d }

/-- `Emit(Delay(ms))` (R165). -/
def emitDelay (d : Draw) (ms : Nat) (rest : List Event) (s : State) : State :=
  { s with
    q := rest
    events := s.events ++ [.delay ms]
    view := viewAfterDelay rest s
    draws := s.draws + 1
    elapsed := s.elapsed + delayMicros ms d }

/-- Emit the head event of the queue (R21): `q` becomes the rest. -/
def emitEvent (d : Draw) (e : Event) (rest : List Event) (s : State) : State :=
  match e with
  | .busWrite addr f => emitBusWrite d addr f rest s
  | .delay ms => emitDelay d ms rest s

/-- A BUSY adapter with an empty queue (R21): SEND_STRING refills, any other request is complete. -/
def finishOrRefill (s : State) : Host.Outcome State Fault Refusal :=
  match s.op with
  | some (.sendString _) => refillString s
  | _ => .next { s with mode := .idle }

/-- Take the word `w` from the port (R21): an illegal one raises its fault, a legal one runs. -/
def takeWord (run : Instr → State → Host.Outcome State Fault Refusal) (w : ReqWord) (s : State) :
    Host.Outcome State Fault Refusal :=
  match decode w with
  | .illegal why => .next (raiseFault why w s)
  | .request i => run i s

/-- `Step` of rule R21, with the meanings of the requests as `run`. The sticky fault is checked first. -/
def sequencerStep (run : Instr → State → Host.Outcome State Fault Refusal) (s : State) : Host.Outcome State Fault Refusal :=
  if s.fault.code ≠ 0 then .fault .faulted
  else
    match s.mode with
    | .idle =>
      match s.port with
      | [] => .fault .noRequest
      | w :: held => takeWord run w { s with port := held }
    | .busy =>
      match s.q with
      | e :: rest => .next (emitEvent (Config.draw s.draws) e rest s)
      | [] => finishOrRefill s

end Sys2Proof.Machine
end

