-- ==== Sys2Proof/Machine/Step.lean ====
section
/-! DEFINITION. One step of the adapter (rule R21), and the host's way to place the next request. -/

namespace Sys2Proof.Machine

/-- One step of the adapter (R21). -/
def step (s : State) : Host.Outcome State Fault Refusal := sequencerStep exec s

/-- `s` with the table's bits `w` as the request word the very next step takes (log entry 22). -/
def State.withFetchWord (s : State) (nbits w : Nat) : State := placeRequest (tableWord nbits w) s

end Sys2Proof.Machine
end

