-- ==== Sys2Proof/Safety.lean ====
section
/-! DEFINITION. The terms claims are stated in: runs and their ends (R23), what the adapter's rules may depend on (R16, R156,
R163), and the invariants a step keeps. -/

namespace Sys2Proof.Machine

/-- `k` steps of the machine, stopping at the first fault or refusal. -/
def State.run (k : Nat) (s : State) : Host.Outcome State Fault Refusal := Host.Core.run Sys2Proof.core k s

/-- The good end of a run (R23). -/
def State.endsWell (s : State) : Prop := s.mode = .idle ∧ s.q = [] ∧ s.fault.code = 0 ∧ s.port = []

/-- The bad end of a run (R23). -/
def State.endsBadly (s : State) : Prop := s.fault.code ≠ 0

/-- A request word is taken by the next step (R21, R22). -/
def State.takes (s : State) (w : ReqWord) (held : List ReqWord) : Prop :=
  s.mode = .idle ∧ s.fault.code = 0 ∧ s.port = w :: held

/-- The adapter's own part of the state, with what it reads and what it puts out: everything but the expander, the controller
view, the draws and the time. -/
structure AdapterPart where
  mode : Mode
  op : Option Instr
  q : List Event
  ptr : HostAddr
  fault : FaultReg
  port : List ReqWord
  hostMem : Memory
  events : List Event
  deriving DecidableEq, Repr

/-- The adapter's part of a state. -/
def State.adapter (s : State) : AdapterPart where
  mode := s.mode
  op := s.op
  q := s.q
  ptr := s.ptr
  fault := s.fault
  port := s.port
  hostMem := s.hostMem
  events := s.events

/-- Two outcomes an observer of the adapter cannot tell apart. -/
def adapterAgrees : Host.Outcome State Fault Refusal → Host.Outcome State Fault Refusal → Prop
  | .next s, .next t => s.adapter = t.adapter
  | .fault f, .fault g => f = g
  | .refused r, .refused r' => r = r'
  | _, _ => False

/-- An event of this block: every BusWrite goes to 0x4E and carries a frame (R42, R93). -/
def eventLegal : Event → Bool
  | .busWrite addr f => decide (addr = devAddr8) && isFramed f
  | .delay _ => true

/-- Where a BUSY sequencer stands: `q` is what is left of the request's expansion, or of one character of a string (R19, R21). -/
def queueOf (i : Instr) (q : List Event) : Prop :=
  q <:+ initialExpansion i ∨ ∃ p b, i = .sendString p ∧ q <:+ stringCharEvents b

/-- The sequencer's invariant. -/
structure State.SeqInv (s : State) : Prop where
  /-- Host memory is in canonical form. -/
  memWf : Memory.wf s.hostMem
  /-- Only the codes 0, 1 and 2 are ever written (R24, R159). -/
  codes : s.fault.code = 0 ∨ s.fault.code = 1 ∨ s.fault.code = 2
  /-- `word` is written with `code` (R24). -/
  noWord : s.fault.code = 0 → s.fault.word = 0
  /-- A faulted adapter is IDLE (R160). -/
  faultIdle : s.fault.code ≠ 0 → s.mode = .idle
  /-- An IDLE adapter has an empty queue (R160, R21). -/
  idleQueue : s.mode = .idle → s.q = []
  /-- A BUSY adapter executes some request and stands in its expansion (R18, R19). -/
  busyQueue : s.mode = .busy → ∃ i, s.op = some i ∧ queueOf i s.q
  /-- Every emitted event is one of this block's (R26, R42, R93). -/
  legal : ∀ e ∈ s.events, eventLegal e = true

/-- The controller view's invariant. -/
structure State.ViewInv (s : State) : Prop where
  /-- During an INIT's 17 events the view is invalid (R142). -/
  initInvalid : s.mode = .busy → s.op = some .init → s.q ≠ [] → s.view.valid = false
  /-- Before INIT's last delay, if every transmit succeeded, the pins hold INIT's last byte (R142). -/
  initPins : s.mode = .busy → s.op = some .init → s.q = [.delay 100] → s.initOk = true → s.expander = some 0x68
  /-- The view's pins are the expander's (R50, R141). -/
  pins : s.view.valid = true → s.expander = some s.view.pins
  /-- Between frames the next nibble is a high one (R145). -/
  phase : s.view.valid = true → s.view.phase = .hi
  /-- Between frames E is low (R145). -/
  enableLow : s.view.valid = true → s.view.pins.getLsbD 2 = false
  /-- The address is in a row span (R147, R150). -/
  addr : s.view.valid = true → (ddramIndex s.view.ac).isSome = true
  /-- The flags are those INIT left: no command of M changes them (R142, R148, R151). -/
  flags : s.view.valid = true →
    s.view.ID = true ∧ s.view.S = false ∧ s.view.D = true ∧ s.view.C = false ∧ s.view.B = false ∧
    s.view.DL = false ∧ s.view.N = true ∧ s.view.F = false

/-- Host memory holds the nonzero bytes `chars` from `p` on (with wrap), all admitted, and the address after them is not
admitted (R118). -/
def holdsUnterminated (m : Memory) (p : HostAddr) : List Byte → Bool
  | [] => decide (Memory.read m p = none)
  | c :: cs => decide (Memory.read m p = some c) && decide (c ≠ 0x00) && holdsUnterminated m (p + 1) cs

/-- Emit the events of the queue in order, with these draws (R8, R21). -/
def State.emitAll : List Draw → State → State
  | [], s => s
  | d :: ds, s =>
    match s.q with
    | [] => s
    | e :: rest => State.emitAll ds (emitEvent d e rest s)

/-- The draws the machine takes for its next `n` events. -/
def State.nextDraws (s : State) (n : Nat) : List Draw := (List.range n).map fun k => Config.draw (s.draws + k)

/-- Every BusWrite among the events succeeds, with these draws (R163). -/
def transmitsOk : List Event → List Draw → Bool
  | [], _ => true
  | _ :: _, [] => false
  | .busWrite _ _ :: es, d :: ds => transmitOk d && transmitsOk es ds
  | .delay _ :: es, _ :: ds => transmitsOk es ds

/-- A valid view executes the byte of each frame, in order (R145, R146); an invalid one nothing. -/
def ControllerView.executeAll : List Event → ControllerView → ControllerView
  | [], c => c
  | .busWrite _ f :: es, c =>
    ControllerView.executeAll es (if c.valid then c.execute (frameValue f) (frameIsData f) else c)
  | .delay _ :: es, c => ControllerView.executeAll es c

/-- A valid view between two frames: the next nibble is a high one and E is low (R145). -/
def ControllerView.betweenFrames (c : ControllerView) : Prop := c.valid = true ∧ c.phase = .hi ∧ c.pins.getLsbD 2 = false

/-- Two views that show the controller in the same state: they differ at most in the pins and the nibble latch. -/
def ControllerView.sameController (c c' : ControllerView) : Prop :=
  c.valid = c'.valid ∧ c.ac = c'.ac ∧ c.ddram = c'.ddram ∧ c.shift = c'.shift ∧ c.ID = c'.ID ∧ c.S = c'.S ∧ c.D = c'.D ∧
  c.C = c'.C ∧ c.B = c'.B ∧ c.DL = c'.DL ∧ c.N = c'.N ∧ c.F = c'.F

end Sys2Proof.Machine
end

