-- ==== Sys2Proof/Certificates/Slice0/Obligations.lean ====
section
/-! DEFINITION. The statements for the provers. Each docstring names the rule of spec/ it formalises, or the log entry it rests
on. -/

open Sys2Proof Sys2Proof.Machine

/-! Encoding. -/

/-- R60 to R62, R66: decoding a request's own word gives the request back, every operand at every value. -/
def Obligations.DecodeOfEncodeIsTheRequest : Prop :=
  ∀ i : Instr, decode (encode i) = .request i

/-- R66: a legal word is the word of the request it decodes to, so each word has one meaning and no bit is dropped. -/
def Obligations.EncodeOfDecodeIsTheWord : Prop :=
  ∀ (w : ReqWord) (i : Instr), decode w = .request i → encode i = w

/-- R63, R64: a word is legal exactly where OP selects a request, RSVD is 0 and every unused field is 0; OP alone decides
ILLEGAL_OP (code 1), whatever the other bits, and every other illegal word is RESERVED_NONZERO (code 2). -/
def Obligations.DecodeFollowsTheFieldRules : Prop :=
  faultCode .illegalOp = 1 ∧ faultCode .reservedNonzero = 2 ∧
  ∀ w : ReqWord,
    ((∃ i, decode w = .request i) ↔ reqWellFormed w = true) ∧
    (decode w = .illegal .illegalOp ↔ 0xA ≤ (opField w).toNat) ∧
    (decode w = .illegal .reservedNonzero ↔ (opField w).toNat < 0xA ∧ reqWellFormed w = false)

/-- R65, its last sentence (the spec's own inference from its table): no two rows match the same word. -/
def Obligations.NoTwoRowsSelectOneWord : Prop :=
  ∀ (w : ReqWord) (r r' : EncRow), r ∈ encRows → r' ∈ encRows →
    w &&& r.mask = r.pattern → w &&& r'.mask = r'.pattern → r = r'

/-- R78, which the spec marks as its own inference from R60 to R62: the request words it writes out. -/
def Obligations.SpecRequestWordsDecode : Prop :=
  decode 0x100000000000 = .request .init ∧
  decode 0x003000000000 = .request (.frame false 0x30) ∧
  decode 0x014100000000 = .request (.frame true 0x41) ∧
  decode 0x300500000001 = .request (.setCursor 1 5) ∧
  decode 0x405800000000 = .request (.sendChar 0x58) ∧
  decode 0x500020000000 = .request (.sendString 0x20000000) ∧
  decode 0x60000000007B = .request (.sendInt 123) ∧
  decode 0x6000FFFFFFFF = .request (.sendInt (-1)) ∧
  decode 0x900000000000 = .request .scrollLeft ∧
  decode 0xA00000000000 = .illegal .illegalOp ∧
  decode 0x100100000000 = .illegal .reservedNonzero

/-! The step relation. -/

/-- R21: an IDLE, unfaulted adapter that finds the word of a request runs that request's meaning, the word taken from the port
(that the word leaves the port is log entry 3); and this is what `withFetchWord` arranges. -/
def Obligations.StepRunsTheDecodedRequest : Prop :=
  (∀ (s : State) (w : ReqWord) (held : List ReqWord) (i : Instr),
    s.takes w held → decode w = .request i → step s = exec i { s with port := held }) ∧
  (∀ (s : State) (w : Nat) (i : Instr), decodeTableWord 48 w = some i →
    step (s.withFetchWord 48 w) = exec i { s with mode := .idle, q := [], fault := ⟨0, 0⟩ })

/-- R159, R160: an illegal word raises its fault: the code and the whole word are recorded, and nothing else of the adapter
changes. -/
def Obligations.StepRecordsAnIllegalWord : Prop :=
  ∀ (s : State) (w : ReqWord) (held : List ReqWord), s.takes w held →
    (0xA ≤ (opField w).toNat → ∃ t, step s = .next t ∧ t.fault = ⟨1, w⟩ ∧ t.mode = .idle ∧ t.q = s.q ∧ t.op = s.op ∧
      t.ptr = s.ptr ∧ t.events = s.events ∧ t.hostMem = s.hostMem ∧ t.expander = s.expander ∧ t.view = s.view) ∧
    ((opField w).toNat < 0xA → reqWellFormed w = false → ∃ t, step s = .next t ∧ t.fault = ⟨2, w⟩ ∧ t.mode = .idle ∧
      t.q = s.q ∧ t.op = s.op ∧ t.ptr = s.ptr ∧ t.events = s.events ∧ t.hostMem = s.hostMem ∧ t.expander = s.expander ∧
      t.view = s.view)

/-- R161: a faulted adapter has no step and accepts no request, until reset; it never ends well. -/
def Obligations.FaultedAdapterHasNoStep : Prop :=
  ∀ s : State, s.fault.code ≠ 0 →
    (∀ t, step s ≠ .next t) ∧ (∀ (w : ReqWord) (t : State), step (s.present w) ≠ .next t) ∧ ¬ s.endsWell ∧
    s.restart.fault.code = 0

/-- R21, R23, with the model's names for "no step" (log entry 4): an IDLE adapter with no fault and no request waits, and so
does one whose run ended well; a faulted one is stopped whatever it holds. -/
def Obligations.AdapterWithoutAStepStopsByName : Prop :=
  (∀ s : State, s.mode = .idle → s.fault.code = 0 → s.port = [] → step s = .fault .noRequest) ∧
  (∀ s : State, s.endsWell → step s = .fault .noRequest) ∧
  (∀ s : State, s.fault.code ≠ 0 → step s = .fault .faulted)

/-- R21, R46, R50, R163: a BusWrite at the head of the queue is emitted, the adapter goes on whatever the transmit's result,
and after a successful one the expander holds the frame's last byte. -/
def Obligations.StepEmitsABusWrite : Prop :=
  ∀ (s : State) (addr : Byte) (f : BusFrame) (rest : List Event),
    s.fault.code = 0 → s.mode = .busy → s.q = .busWrite addr f :: rest →
    ∃ t : State, step s = .next t ∧ t.q = rest ∧ t.events = s.events ++ [.busWrite addr f] ∧ t.mode = .busy ∧ t.op = s.op ∧
      t.ptr = s.ptr ∧ t.fault = s.fault ∧ t.port = s.port ∧ t.hostMem = s.hostMem ∧
      t.expander = some (if Config.xferResult s.draws = .success then f.b3 else Config.unknownPins s.draws)

/-- R21, R165: a Delay at the head of the queue is emitted and takes at least its stated milliseconds; the pins hold. -/
def Obligations.StepEmitsADelay : Prop :=
  ∀ (s : State) (ms : Nat) (rest : List Event),
    s.fault.code = 0 → s.mode = .busy → s.q = .delay ms :: rest →
    ∃ t : State, step s = .next t ∧ t.q = rest ∧ t.events = s.events ++ [.delay ms] ∧ t.mode = .busy ∧ t.op = s.op ∧
      t.ptr = s.ptr ∧ t.fault = s.fault ∧ t.port = s.port ∧ t.hostMem = s.hostMem ∧ t.expander = s.expander ∧
      s.elapsed + ms * 1000 ≤ t.elapsed

/-- R21, R22: a request that is no string is complete when its queue is empty, and only the mode changes (that `op` keeps its
value is the model's reading, log entry 19). -/
def Obligations.StepCompletesARequest : Prop :=
  ∀ s : State, s.fault.code = 0 → s.mode = .busy → s.q = [] → (∀ p, s.op ≠ some (.sendString p)) →
    step s = .next { s with mode := .idle }

/-- R21, R43, R117, R118, R19: a string's next byte is read when the queue is empty; a nonzero byte is framed and delayed, with
`ptr` advanced modulo 2^32; 0x00 ends the request (`op` and `ptr` kept: log entry 19); an address not admitted leaves no step
(the stop's name: log entry 4). -/
def Obligations.StepRefillsAString : Prop :=
  ∀ (s : State) (p : HostAddr), s.fault.code = 0 → s.mode = .busy → s.q = [] → s.op = some (.sendString p) →
    (∀ b : Byte, Memory.read s.hostMem s.ptr = some b → b ≠ 0x00 →
      step s = .next { s with q := [.busWrite 0x4E (frame b true), .delay 1], ptr := s.ptr + 1 }) ∧
    (Memory.read s.hostMem s.ptr = some 0x00 → step s = .next { s with mode := .idle }) ∧
    (Memory.read s.hostMem s.ptr = none → step s = .fault (.unadmittedRead s.ptr))

/-- R22: a request presented while BUSY is not accepted; the port holds it. -/
def Obligations.BusyAdapterHoldsThePort : Prop :=
  ∀ s t : State, s.mode = .busy → step s = .next t → t.port = s.port

/-- R45: the block performs no memory write: no step and no request changes what any address reads as. -/
def Obligations.NothingWritesHostMemory : Prop :=
  (∀ (s t : State) (a : HostAddr), step s = .next t → Memory.read t.hostMem a = Memory.read s.hostMem a) ∧
  (∀ (i : Instr) (s t : State) (a : HostAddr), exec i s = .next t → Memory.read t.hostMem a = Memory.read s.hostMem a)

/-- R21, R54: a step emits nothing, or exactly the head of the queue at the end of the stream. -/
def Obligations.StepEmitsAtMostTheQueueHead : Prop :=
  ∀ s t : State, step s = .next t →
    t.events = s.events ∨
    ∃ e rest, s.mode = .busy ∧ s.q = e :: rest ∧ t.q = rest ∧ t.events = s.events ++ [e]

/-- R166, R157: an accepted request never faults part-way: a step of a BUSY adapter keeps the fault register, its only stop is
the read of an address not admitted, and no step is ever refused. -/
def Obligations.AcceptedRequestNeverFaults : Prop :=
  (∀ s t : State, s.mode = .busy → step s = .next t → t.fault = s.fault) ∧
  (∀ (s : State) (f : Fault), s.mode = .busy → s.fault.code = 0 → step s = .fault f →
    f = .unadmittedRead s.ptr ∧ s.q = [] ∧ Memory.read s.hostMem s.ptr = none ∧ ∃ p, s.op = some (.sendString p)) ∧
  (∀ (s : State) (r : Refusal), step s ≠ .refused r)

/-! Reset. -/

/-- R181: the adapter's state after reset, and the constants of R7 at their fixed values. -/
def Obligations.ResetStateIsTheSpecs : Prop :=
  State.reset.mode = .idle ∧ State.reset.op = none ∧ State.reset.q = [] ∧ State.reset.ptr = 0 ∧
  State.reset.fault.code = 0 ∧ State.reset.fault.word = 0 ∧
  devAddr8 = 0x4E ∧ ctlCmdEH = 0x0C ∧ ctlCmdEL = 0x08 ∧ ctlDatEH = 0x0D ∧ ctlDatEL = 0x09 ∧ frameLen = 4 ∧ rows = 2 ∧
  cols = 16 ∧ rowBase0 = 0x80 ∧ rowBase1 = 0xC0 ∧ stdDelayMs = 1 ∧ scrollCount = 40 ∧ scrollDelayMs = 750 ∧
  xferTimeoutMs = 100 ∧ powerSettleMs = 50 ∧
  initTable = [(0x30, 5), (0x30, 1), (0x30, 10), (0x20, 1), (0x28, 1), (0x0C, 1), (0x01, 1), (0x06, 100)]

/-- R182, R168, R183 (how a reset meets a running machine is log entry 21): reset clears the fault, abandons the request, emits nothing, runs no INIT and leaves host memory alone;
and no step clears a fault. -/
def Obligations.OnlyResetClearsAFault : Prop :=
  (∀ s : State, s.restart.fault = ⟨0, 0⟩ ∧ s.restart.mode = .idle ∧ s.restart.op = none ∧ s.restart.q = [] ∧
    s.restart.events = [] ∧ s.restart.hostMem = s.hostMem ∧ s.restart.view.valid = false) ∧
  (∀ s t : State, step s = .next t → s.fault.code = 0)

/-! The framer. -/

/-- R87, R88: the framer function. -/
def Obligations.FramerComputesTheFourBytes : Prop :=
  ∀ v : Byte,
    frame v false = ⟨(v &&& 0xF0) ||| 0x0C, (v &&& 0xF0) ||| 0x08, ((v <<< 4) &&& 0xF0) ||| 0x0C, ((v <<< 4) &&& 0xF0) ||| 0x08⟩ ∧
    frame v true = ⟨(v &&& 0xF0) ||| 0x0D, (v &&& 0xF0) ||| 0x09, ((v <<< 4) &&& 0xF0) ||| 0x0D, ((v <<< 4) &&& 0xF0) ||| 0x09⟩

/-- R90: each nibble in the top half of its pair of bytes, the mode's control nibbles in the bottom halves. -/
def Obligations.FrameHoldsNibblesAndControlNibbles : Prop :=
  ∀ (v : Byte) (isData : Bool),
    (frame v isData).b0.extractLsb' 4 4 = v.extractLsb' 4 4 ∧ (frame v isData).b1.extractLsb' 4 4 = v.extractLsb' 4 4 ∧
    (frame v isData).b2.extractLsb' 4 4 = v.extractLsb' 0 4 ∧ (frame v isData).b3.extractLsb' 4 4 = v.extractLsb' 0 4 ∧
    (frame v isData).b0.extractLsb' 0 4 = (if isData then 0xD else 0xC) ∧
    (frame v isData).b2.extractLsb' 0 4 = (if isData then 0xD else 0xC) ∧
    (frame v isData).b1.extractLsb' 0 4 = (if isData then 0x9 else 0x8) ∧
    (frame v isData).b3.extractLsb' 0 4 = (if isData then 0x9 else 0x8)

/-- R91, R92: E is 1, 0, 1, 0 over the four bytes; RS is the mode, RW is 0 and X is 1 in all four. -/
def Obligations.FramePulsesEnableWithStableControls : Prop :=
  ∀ (v : Byte) (isData : Bool),
    (frame v isData).b0.getLsbD 2 = true ∧ (frame v isData).b1.getLsbD 2 = false ∧
    (frame v isData).b2.getLsbD 2 = true ∧ (frame v isData).b3.getLsbD 2 = false ∧
    ∀ b ∈ frameBytes (frame v isData), b.getLsbD 0 = isData ∧ b.getLsbD 1 = false ∧ b.getLsbD 3 = true

/-- R93: different inputs give different frames, the inputs are recovered as the rule says, and every byte is of one of the
four control-nibble classes. -/
def Obligations.FramerIsInjective : Prop :=
  (∀ (v v' : Byte) (isData isData' : Bool), frame v isData = frame v' isData' → v = v' ∧ isData = isData') ∧
  (∀ (v : Byte) (isData : Bool),
    ((frame v isData).b0.extractLsb' 4 4 ++ (frame v isData).b2.extractLsb' 4 4 : BitVec 8) = v ∧
    (frame v isData).b0.getLsbD 0 = isData ∧ ∀ b ∈ frameBytes (frame v isData), (controlClass b).isSome = true)

/-! What each request puts in the queue, and that it changes nothing else. -/

/-- R89: FRAME, its encoding and its expansion, for both modes; the frame is that of R88. -/
def Obligations.FrameRequestQueuesOneFrame : Prop :=
  (∀ w : ReqWord, w &&& 0xFE00FFFFFFFF = 0x000000000000 →
    decode w = .request (.frame (w.getLsbD 40) (w.extractLsb' 32 8))) ∧
  ∀ (v : Byte) (s : State),
    exec (.frame false v) s = .next { s with mode := .busy, op := some (.frame false v), q := [.busWrite 0x4E
      ⟨(v &&& 0xF0) ||| 0x0C, (v &&& 0xF0) ||| 0x08, ((v &&& 0x0F) <<< 4) ||| 0x0C, ((v &&& 0x0F) <<< 4) ||| 0x08⟩] } ∧
    exec (.frame true v) s = .next { s with mode := .busy, op := some (.frame true v), q := [.busWrite 0x4E
      ⟨(v &&& 0xF0) ||| 0x0D, (v &&& 0xF0) ||| 0x09, ((v &&& 0x0F) <<< 4) ||| 0x0D, ((v &&& 0x0F) <<< 4) ||| 0x09⟩] }

/-- R97: INIT, its encoding and its expansion of 17 events; the rest of the adapter is unchanged. -/
def Obligations.InitRequestQueuesTheHandshake : Prop :=
  (∀ w : ReqWord, w &&& 0xFFFFFFFFFFFF = 0x100000000000 → decode w = .request .init) ∧
  ∀ s : State, ∃ t : State, exec .init s = .next t ∧ t.mode = .busy ∧ t.op = some .init ∧
    t.q = [.delay 50, .busWrite 0x4E (frame 0x30 false), .delay 5, .busWrite 0x4E (frame 0x30 false), .delay 1,
      .busWrite 0x4E (frame 0x30 false), .delay 10, .busWrite 0x4E (frame 0x20 false), .delay 1,
      .busWrite 0x4E (frame 0x28 false), .delay 1, .busWrite 0x4E (frame 0x0C false), .delay 1,
      .busWrite 0x4E (frame 0x01 false), .delay 1, .busWrite 0x4E (frame 0x06 false), .delay 100] ∧
    t.ptr = s.ptr ∧ t.fault = s.fault ∧ t.port = s.port ∧ t.hostMem = s.hostMem ∧ t.events = s.events ∧
    t.expander = s.expander ∧ t.draws = s.draws ∧ t.elapsed = s.elapsed

/-- R131: CLEAR, its encoding and its expansion. -/
def Obligations.ClearRequestQueuesItsCommand : Prop :=
  (∀ w : ReqWord, w &&& 0xFFFFFFFFFFFF = 0x200000000000 → decode w = .request .clear) ∧
  ∀ s : State, exec .clear s = .next { s with
    mode := .busy, op := some .clear, q := [.busWrite 0x4E (frame 0x01 false), .delay 1] }

/-- R107, R108: SET_CURSOR, its encoding and its expansion, for every row and column: the row is tested only for zero, and
nothing is validated. -/
def Obligations.SetCursorRequestQueuesItsAddress : Prop :=
  (∀ w : ReqWord, w &&& 0xFF0000000000 = 0x300000000000 →
    decode w = .request (.setCursor (w.extractLsb' 0 32) (w.extractLsb' 32 8))) ∧
  ∀ (row : BitVec 32) (col : Byte) (s : State), exec (.setCursor row col) s = .next { s with
    mode := .busy
    op := some (.setCursor row col)
    q := [.busWrite 0x4E (frame (col ||| (if row = 0 then 0x80 else 0xC0)) false), .delay 1] }

/-- R113: SEND_CHAR, its encoding and its expansion, for every byte, with no delay. -/
def Obligations.SendCharRequestQueuesOneFrame : Prop :=
  (∀ w : ReqWord, w &&& 0xFF00FFFFFFFF = 0x400000000000 → decode w = .request (.sendChar (w.extractLsb' 32 8))) ∧
  ∀ (c : Byte) (s : State), exec (.sendChar c) s = .next { s with
    mode := .busy, op := some (.sendChar c), q := [.busWrite 0x4E (frame c true)] }

/-- R117's encoding, R19: SEND_STRING starts with an empty queue and its pointer. -/
def Obligations.SendStringRequestLoadsThePointer : Prop :=
  (∀ w : ReqWord, w &&& 0xFFFF00000000 = 0x500000000000 → decode w = .request (.sendString (w.extractLsb' 0 32))) ∧
  ∀ (p : HostAddr) (s : State), exec (.sendString p) s = .next { s with
    mode := .busy, op := some (.sendString p), q := [], ptr := p }

/-- R121, R122, R125: SEND_INT of a positive number queues the data frames of its decimal digits, most significant first and
without leading zeros, then one delay. The digit's byte 0x30 + d is ASCII (log entry 23). -/
def Obligations.SendIntRequestQueuesDecimalDigits : Prop :=
  (∀ w : ReqWord, w &&& 0xFFFF00000000 = 0x600000000000 → decode w = .request (.sendInt (w.extractLsb' 0 32))) ∧
  ∀ (n : BitVec 32) (s : State), 0 < n.toInt →
    ∃ ds : List Nat, ds ≠ [] ∧ ds.head? ≠ some 0 ∧ (∀ d ∈ ds, d < 10) ∧
      ((ds.foldl (fun acc d => 10 * acc + d) 0 : Nat) : Int) = n.toInt ∧ ds.length ≤ 10 ∧
      exec (.sendInt n) s = .next { s with
        mode := .busy
        op := some (.sendInt n)
        q := ds.map (fun d => .busWrite 0x4E (frame (0x30 + BitVec.ofNat 8 d) true)) ++ [.delay 1] }

/-- R123: SEND_INT of 0, for both settings of the parameter. -/
def Obligations.SendIntZeroFollowsTheParameter : Prop :=
  ∀ s : State, exec (.sendInt 0) s = .next { s with
    mode := .busy
    op := some (.sendInt 0)
    q := (if Config.sendIntZeroEmitsDigit then [.busWrite 0x4E (frame 0x30 true)] else []) ++ [.delay 1] }

/-- R124: SEND_INT of a negative number: one data frame for each byte of SENDINT_NEG, whatever it is, then one delay. -/
def Obligations.SendIntNegativeFollowsTheParameter : Prop :=
  ∀ (n : BitVec 32) (s : State), n.toInt < 0 → exec (.sendInt n) s = .next { s with
    mode := .busy
    op := some (.sendInt n)
    q := (Config.sendIntNeg n).map (fun b => .busWrite 0x4E (frame b true)) ++ [.delay 1] }

/-- R133, R135: SHIFT_RIGHT and SHIFT_LEFT, their encodings and their expansions. -/
def Obligations.ShiftRequestsQueueTheirCommands : Prop :=
  (∀ w : ReqWord, w &&& 0xFFFFFFFFFFFF = 0x700000000000 → decode w = .request .shiftRight) ∧
  (∀ w : ReqWord, w &&& 0xFFFFFFFFFFFF = 0x800000000000 → decode w = .request .shiftLeft) ∧
  ∀ s : State,
    exec .shiftRight s = .next { s with
      mode := .busy, op := some .shiftRight, q := [.busWrite 0x4E (frame 0x1C false), .delay 1] } ∧
    exec .shiftLeft s = .next { s with
      mode := .busy, op := some .shiftLeft, q := [.busWrite 0x4E (frame 0x18 false), .delay 1] }

/-- R137: SCROLL_LEFT, its encoding and its expansion: forty times the shift-left frame and a 750 ms delay. -/
def Obligations.ScrollLeftRequestQueuesFortyShifts : Prop :=
  (∀ w : ReqWord, w &&& 0xFFFFFFFFFFFF = 0x900000000000 → decode w = .request .scrollLeft) ∧
  ∀ s : State, exec .scrollLeft s = .next { s with
    mode := .busy
    op := some .scrollLeft
    q := (List.replicate 40 [Event.busWrite 0x4E (frame 0x18 false), Event.delay 750]).flatten }

/-- R127 (the spec's own inference): a positive number of k + 1 decimal digits queues a frame for each digit and one delay of
1 ms, k + 2 events in all, and has never more digits than the digit store's ten. -/
def Obligations.SendIntQueuesAFrameForEachDigit : Prop :=
  ∀ (n : BitVec 32) (k : Nat), 0 < n.toInt → 10 ^ k ≤ n.toInt → n.toInt < 10 ^ (k + 1) →
    frameCount (intEvents n) = k + 1 ∧ delayList (intEvents n) = [1] ∧ (intEvents n).length = k + 2 ∧ k + 1 ≤ 10

/-- R201: the frames, the delays and the delay total of every request. -/
def Obligations.ExpansionsHaveTheStatedDelays : Prop :=
  (∀ isData v, frameCount (initialExpansion (.frame isData v)) = 1 ∧ delayList (initialExpansion (.frame isData v)) = [] ∧
    delayTotal (initialExpansion (.frame isData v)) = 0) ∧
  (frameCount (initialExpansion .init) = 8 ∧ delayList (initialExpansion .init) = [50, 5, 1, 10, 1, 1, 1, 1, 100] ∧
    delayTotal (initialExpansion .init) = 170) ∧
  (frameCount (initialExpansion .clear) = 1 ∧ delayList (initialExpansion .clear) = [1] ∧
    delayTotal (initialExpansion .clear) = 1) ∧
  (∀ row col, frameCount (initialExpansion (.setCursor row col)) = 1 ∧ delayList (initialExpansion (.setCursor row col)) = [1] ∧
    delayTotal (initialExpansion (.setCursor row col)) = 1) ∧
  (∀ c, frameCount (initialExpansion (.sendChar c)) = 1 ∧ delayList (initialExpansion (.sendChar c)) = [] ∧
    delayTotal (initialExpansion (.sendChar c)) = 0) ∧
  (∀ chars, frameCount (stringEvents chars) = chars.length ∧ delayList (stringEvents chars) = List.replicate chars.length 1 ∧
    delayTotal (stringEvents chars) = chars.length) ∧
  (∀ n, frameCount (initialExpansion (.sendInt n)) = (intBytes n).length ∧ delayList (initialExpansion (.sendInt n)) = [1] ∧
    delayTotal (initialExpansion (.sendInt n)) = 1) ∧
  (frameCount (initialExpansion .shiftRight) = 1 ∧ delayList (initialExpansion .shiftRight) = [1] ∧
    delayTotal (initialExpansion .shiftRight) = 1) ∧
  (frameCount (initialExpansion .shiftLeft) = 1 ∧ delayList (initialExpansion .shiftLeft) = [1] ∧
    delayTotal (initialExpansion .shiftLeft) = 1) ∧
  (frameCount (initialExpansion .scrollLeft) = 40 ∧ delayList (initialExpansion .scrollLeft) = List.replicate 40 750 ∧
    delayTotal (initialExpansion .scrollLeft) = 30000)

/-! Whole requests. -/

/-- R11, R21, R22, R54: from the word's acceptance to the return to IDLE, a request other than SEND_STRING emits exactly its
expansion, in order, and changes nothing else of the adapter. That `op` keeps the request once IDLE is the model's reading (log
entry 19), and that the taken word has left the port is its choice (log entry 3). -/
def Obligations.RequestEmitsExactlyItsExpansion : Prop :=
  ∀ (s : State) (w : ReqWord) (held : List ReqWord) (i : Instr),
    s.takes w held → decode w = .request i → (∀ p, i ≠ .sendString p) →
    ∃ t : State, s.run ((initialExpansion i).length + 2) = .next t ∧
      t.events = s.events ++ initialExpansion i ∧ t.mode = .idle ∧ t.q = [] ∧ t.op = some i ∧ t.ptr = s.ptr ∧
      t.fault = s.fault ∧ t.port = held ∧ t.hostMem = s.hostMem

/-- R116: SEND_STRING emits a data frame and a 1 ms delay for each byte before the first 0x00, in order, and completes; the
empty string is no event. `ptr` ends at the terminator and wraps modulo 2^32 (R19). That the host writes nothing during the run
is the model's reading of R44 (log entry 6), and that `ptr` keeps its value once IDLE is its reading of R21 (log entry 19). -/
def Obligations.StringEmitsEachCharacterThenCompletes : Prop :=
  ∀ (s : State) (w : ReqWord) (held : List ReqWord) (p : HostAddr) (chars : List Byte),
    s.takes w held → decode w = .request (.sendString p) → holdsString s.hostMem p chars = true →
    ∃ t : State, s.run (3 * chars.length + 2) = .next t ∧
      t.events = s.events ++ chars.flatMap (fun c => [.busWrite 0x4E (frame c true), .delay 1]) ∧
      t.mode = .idle ∧ t.q = [] ∧ t.ptr = p + BitVec.ofNat 32 chars.length ∧ t.fault = s.fault ∧ t.hostMem = s.hostMem

/-- R118, R43: a string with no 0x00 before an address that is not admitted is stuck there, every byte before it sent. That the
host writes nothing during the run is the model's reading of R44 (log entry 6), and the stop's name is its own (log entry 4). -/
def Obligations.UnterminatedStringSticksAtTheUnadmittedAddress : Prop :=
  ∀ (s : State) (w : ReqWord) (held : List ReqWord) (p : HostAddr) (chars : List Byte),
    s.takes w held → decode w = .request (.sendString p) → holdsUnterminated s.hostMem p chars = true →
    ∃ t : State, s.run (3 * chars.length + 1) = .next t ∧
      t.events = s.events ++ chars.flatMap (fun c => [.busWrite 0x4E (frame c true), .delay 1]) ∧
      t.mode = .busy ∧ step t = .fault (.unadmittedRead (p + BitVec.ofNat 32 chars.length))

/-- R21, R8: a BUSY adapter with no fault emits its whole queue, one event a step, each with the draws of its own number. -/
def Obligations.BusyRunEmitsTheQueueWithItsDraws : Prop :=
  ∀ s : State, s.fault.code = 0 → s.mode = .busy → s.run s.q.length = .next (s.emitAll (s.nextDraws s.q.length))

/-- R142 (that the view is invalid from the acceptance on is log entry 18): an accepted INIT invalidates the view, and emitting
its events, with any draws, leaves the view in the post-INIT state the spec
assumes if every transmit succeeded, and invalid if one did not. The post-INIT values rest on log entries 15 and 17. -/
def Obligations.InitLeavesTheViewInItsPostState : Prop :=
  ∀ (s t : State) (ds : List Draw), exec .init s = .next t → ds.length = 17 →
    t.view = { s.view with valid := false } ∧
    (transmitsOk t.q ds = true →
      (t.emitAll ds).view = { t.view with
        valid := true, pins := 0x68, phase := .hi, ac := 0, ddram := Vector.replicate 80 0x20, shift := 0, ID := true,
        S := false, D := true, C := false, B := false, DL := false, N := true, F := false }) ∧
    (transmitsOk t.q ds = false → (t.emitAll ds).view.valid = false)

/-- R203, R165, R164: a request's elapsed time is at least its delay total plus a positive time for each transmit (in
microseconds: log entry 12); a string of k characters has k delays of 1 ms and k transmits (that the host writes nothing during
its run: log entry 6). -/
def Obligations.RequestTakesAtLeastItsDelays : Prop :=
  (∀ (s : State) (w : ReqWord) (held : List ReqWord) (i : Instr) (t : State),
    s.takes w held → decode w = .request i → (∀ p, i ≠ .sendString p) →
    s.run ((initialExpansion i).length + 2) = .next t →
    s.elapsed + 1000 * delayTotal (initialExpansion i) + frameCount (initialExpansion i) ≤ t.elapsed) ∧
  (∀ (s : State) (w : ReqWord) (held : List ReqWord) (p : HostAddr) (chars : List Byte) (t : State),
    s.takes w held → decode w = .request (.sendString p) → holdsString s.hostMem p chars = true →
    s.run (3 * chars.length + 2) = .next t →
    s.elapsed + 1000 * chars.length + chars.length ≤ t.elapsed)

/-! The controller view. -/

/-- R143, R144, R145: between frames, the four bytes of a frame execute its byte exactly once and leave the next nibble a high
one and E low. -/
def Obligations.FrameExecutesItsByteOnce : Prop :=
  ∀ (c : ControllerView) (v : Byte) (isData : Bool), c.betweenFrames →
    c.seeFrame (frame v isData) =
      { c.execute v isData with
        pins := (frame v isData).b3, phase := .hi, held := v.extractLsb' 4 4, heldRs := isData } ∧
    (frame v isData).b3.getLsbD 2 = false

/-- R145, R152: while every transmit succeeds, what a request other than INIT does to the controller is its frames' bytes
executed in order (that the controller executes each is log entry 16). -/
def Obligations.RequestExecutesItsBytesInOrder : Prop :=
  ∀ (s : State) (ds : List Draw), s.op ≠ some .init → s.view.betweenFrames → (∀ e ∈ s.q, eventLegal e = true) →
    ds.length = s.q.length → transmitsOk s.q ds = true →
    (s.emitAll ds).view.sameController (s.view.executeAll s.q)

/-- R147 (the wrap points are general knowledge: log entry 17): a data write in a row span stores its byte at `ac`, leaves the
other 79 alone, and advances `ac`. -/
def Obligations.DataWriteStoresAndAdvances : Prop :=
  ∀ (c : ControllerView) (v : Byte) (i : Fin 80), c.valid = true → c.ID = true → c.S = false → ddramIndex c.ac = some i →
    (c.execute v true).valid = true ∧ (c.execute v true).ddram.get i = v ∧
    (∀ j : Fin 80, j ≠ i → (c.execute v true).ddram.get j = c.ddram.get j) ∧
    (c.execute v true).ac = (if c.ac = 0x27 then 0x40 else if c.ac = 0x67 then 0x00 else c.ac + 1) ∧
    (c.execute v true).shift = c.shift

/-- R147, R153: a data write outside the row spans, or with display shift on write, leaves the view invalid. -/
def Obligations.UnmodelledDataWriteInvalidates : Prop :=
  ∀ (c : ControllerView) (v : Byte), (ddramIndex c.ac = none ∨ c.S = true) → (c.execute v true).valid = false

/-- R148 (the fill value, the shift and ID are general knowledge: log entry 17): clear homes the cursor, fills the DDRAM with
spaces, resets the shift and sets increment, and keeps the other flags. -/
def Obligations.ClearCommandHomesAndFills : Prop :=
  ∀ c : ControllerView, c.execute 0x01 false =
    { c with ac := 0, ddram := Vector.replicate 80 0x20, shift := 0, ID := true }

/-- R149, R134, R136 (modulus and direction are general knowledge: log entry 17): the shift commands move only the shift, by one
modulo 40; forty left shifts, or one right and one left, leave the view as it was. -/
def Obligations.ShiftCommandsMoveOnlyTheWindow : Prop :=
  ∀ c : ControllerView,
    (c.execute 0x1C false = { c with shift := (c.execute 0x1C false).shift } ∧
      (c.execute 0x1C false).shift.val = (c.shift.val + 1) % 40) ∧
    (c.execute 0x18 false = { c with shift := (c.execute 0x18 false).shift } ∧
      (c.execute 0x18 false).shift.val = (c.shift.val + 39) % 40) ∧
    (c.execute 0x1C false).execute 0x18 false = c ∧ (c.execute 0x18 false).execute 0x1C false = c ∧
    (c.valid = true → c.executeAll scrollEvents = c)

/-- R150, R153: a set-address byte sets `ac` where its address is in a row span, and otherwise leaves the view invalid. -/
def Obligations.SetAddressCommandMovesOrInvalidates : Prop :=
  ∀ (c : ControllerView) (a : BitVec 7),
    ((a.toNat ≤ 0x27 ∨ (0x40 ≤ a.toNat ∧ a.toNat ≤ 0x67)) → c.execute ((1 : BitVec 1) ++ a) false = { c with ac := a }) ∧
    (¬ (a.toNat ≤ 0x27 ∨ (0x40 ≤ a.toNat ∧ a.toNat ≤ 0x67)) → (c.execute ((1 : BitVec 1) ++ a) false).valid = false)

/-- R110: the byte of SET_CURSOR for a position of the 2 by 16 grid sets `ac` to the column in row 0 and to 0x40 plus the
column in any other row. -/
def Obligations.SetCursorReachesTheGridPosition : Prop :=
  ∀ (c : ControllerView) (row : BitVec 32) (col : Byte), col.toNat < 16 →
    c.execute (cursorByte row col) false =
      { c with ac := (if row = 0 then 0x00 else 0x40) + col.extractLsb' 0 7 }

/-- R151 (the bit decomposition is general knowledge: log entry 17): the three flag commands. -/
def Obligations.FlagCommandsSetTheirFlags : Prop :=
  ∀ c : ControllerView,
    c.execute 0x06 false = { c with ID := true, S := false } ∧
    c.execute 0x0C false = { c with D := true, C := false, B := false } ∧
    c.execute 0x28 false = { c with DL := false, N := true, F := false }

/-- R146, R153: a command byte outside the set M leaves the view invalid. -/
def Obligations.CommandOutsideTheSetInvalidates : Prop :=
  ∀ (c : ControllerView) (v : Byte), v.toNat < 0x80 → v ∉ [0x01, 0x06, 0x0C, 0x18, 0x1C, 0x28] →
    (c.execute v false).valid = false

/-- R163 (that the unknown pins are one drawn byte is the model's choice, log entry 10): a BusWrite whose transmit did not
succeed leaves the view invalid and the pins at whatever was drawn; whatever the result, the adapter goes on to its next event with the rest of its state as it was: no retry, no status, no INIT. -/
def Obligations.FailedTransmitInvalidatesTheView : Prop :=
  ∀ (s : State) (d : Draw) (addr : Byte) (f : BusFrame) (rest : List Event),
    (d.result ≠ .success → (emitBusWrite d addr f rest s).view.valid = false ∧
      (emitBusWrite d addr f rest s).expander = some d.pins) ∧
    (emitBusWrite d addr f rest s).adapter = { s.adapter with q := rest, events := s.events ++ [.busWrite addr f] }

/-- R154 (the mapping is general knowledge: log entry 17): what a display position shows. -/
def Obligations.DisplayShowsTheShiftedWindow : Prop :=
  ∀ (c : ControllerView) (r : Fin 2) (col : Fin 16),
    ((c.valid = false ∨ c.D = false) → c.visible r col = none) ∧
    (c.valid = true → c.D = true →
      c.visible r col = some (c.ddram.get ⟨40 * r.val + (col.val + 40 - c.shift.val) % 40, by omega⟩))

/-! The whole machine. -/

/-- R24, R19, R21, R26, R160: every step keeps the sequencer's invariant, from every state that meets it. -/
def Obligations.StepKeepsTheSequencerInvariant : Prop :=
  ∀ s t : State, s.SeqInv → step s = .next t → t.SeqInv

/-- R142, R145, R147, R150, R151: every step keeps the controller view's invariant. -/
def Obligations.StepKeepsTheViewInvariant : Prop :=
  ∀ s t : State, s.SeqInv → s.ViewInv → step s = .next t → t.ViewInv

/-- Both invariants hold after reset. -/
def Obligations.ResetMeetsTheInvariants : Prop := State.reset.SeqInv ∧ State.reset.ViewInv

/-- R177, R182: what the host does between steps keeps both invariants: presenting a word, placing a byte in its memory,
resetting the block, switching the controller off and on. -/
def Obligations.HostActionsKeepTheInvariants : Prop :=
  ∀ s : State, s.SeqInv → s.ViewInv →
    (∀ w : ReqWord, (s.present w).SeqInv ∧ (s.present w).ViewInv) ∧
    (∀ (a : HostAddr) (b : Byte), (s.hostStore a b).SeqInv ∧ (s.hostStore a b).ViewInv) ∧
    (s.restart.SeqInv ∧ s.restart.ViewInv) ∧ s.controllerPowerUp.SeqInv ∧ s.controllerPowerUp.ViewInv

/-- R156: nothing in the block can read the controller view: the adapter depends on nothing but its own state, its request port and host memory: two states
that agree on these, whatever their draws, expander, controller view and time, step alike and go on agreeing for any number of
steps. -/
def Obligations.AdapterDependsOnlyOnItsOwnPart : Prop :=
  ∀ (k : Nat) (s t : State), s.adapter = t.adapter → adapterAgrees (s.run k) (t.run k)

/-- R183, R184, R185: after reset the view is invalid, the expander has no value (none of a byte is the model's reading of R184,
log entry 11), and the event stream is empty. -/
def Obligations.ResetLeavesNoOutput : Prop :=
  State.reset.view.valid = false ∧ State.reset.expander = none ∧ (∀ i, State.reset.expanderLine i = none) ∧
  State.reset.events = []
end

