-- ==== Sys2Proof/Laws/Encoding.lean ====
section
/-! SUPPORT. The fields of a packed word (rule R60), from which the round trips follow. -/

namespace Sys2Proof

/-- Concatenation puts the left part above the right one (R9). -/
theorem toNat_append_mul {n m : Nat} (x : BitVec n) (y : BitVec m) : (x ++ y).toNat = x.toNat * 2 ^ m + y.toNat := by
  rw [BitVec.toNat_append, ← Nat.shiftLeft_add_eq_or_of_lt y.isLt, Nat.shiftLeft_eq]

/-- The value of a packed word. -/
theorem packFields_toNat (op : BitVec 4) (f : Bool) (a : Byte) (b : BitVec 32) :
    (packFields op f a b).toNat = op.toNat * 2 ^ 44 + f.toNat * 2 ^ 40 + a.toNat * 2 ^ 32 + b.toNat := by
  have h : (packFields op f a b).toNat = (op ++ (0 : BitVec 3) ++ BitVec.ofBool f ++ a ++ b).toNat := rfl
  rw [h]
  simp only [toNat_append_mul, BitVec.toNat_ofBool]
  have h0 : (0 : BitVec 3).toNat = 0 := rfl
  omega

/-- The value of a field. -/
theorem field_toNat (w : ReqWord) (lo len : Nat) : (w.extractLsb' lo len).toNat = w.toNat / 2 ^ lo % 2 ^ len := by
  rw [BitVec.extractLsb'_toNat, Nat.shiftRight_eq_div_pow]

theorem bool_eq_of_toNat_eq {a b : Bool} (h : a.toNat = b.toNat) : a = b := by cases a <;> cases b <;> simp_all

theorem fField_toNat (w : ReqWord) : (fField w).toNat = w.toNat / 2 ^ 40 % 2 := by
  rw [fField, BitVec.getLsbD, Nat.toNat_testBit]

@[simp] theorem opField_packFields (op : BitVec 4) (f : Bool) (a : Byte) (b : BitVec 32) :
    opField (packFields op f a b) = op := by
  apply BitVec.eq_of_toNat_eq
  rw [opField, field_toNat, packFields_toNat]
  have := f.toNat_le; omega

@[simp] theorem rsvdField_packFields (op : BitVec 4) (f : Bool) (a : Byte) (b : BitVec 32) :
    rsvdField (packFields op f a b) = 0 := by
  apply BitVec.eq_of_toNat_eq
  rw [rsvdField, field_toNat, packFields_toNat]
  have := f.toNat_le; have h0 : (0 : BitVec 3).toNat = 0 := rfl; omega

@[simp] theorem fField_packFields (op : BitVec 4) (f : Bool) (a : Byte) (b : BitVec 32) :
    fField (packFields op f a b) = f := by
  apply bool_eq_of_toNat_eq
  rw [fField_toNat, packFields_toNat]
  have := f.toNat_le; omega

@[simp] theorem aField_packFields (op : BitVec 4) (f : Bool) (a : Byte) (b : BitVec 32) :
    aField (packFields op f a b) = a := by
  apply BitVec.eq_of_toNat_eq
  rw [aField, field_toNat, packFields_toNat]
  omega

@[simp] theorem bField_packFields (op : BitVec 4) (f : Bool) (a : Byte) (b : BitVec 32) :
    bField (packFields op f a b) = b := by
  apply BitVec.eq_of_toNat_eq
  rw [bField, field_toNat, packFields_toNat]
  omega

/-- A word with RSVD = 0 is its other four fields. -/
theorem packFields_fields (w : ReqWord) (h : rsvdField w = 0) :
    packFields (opField w) (fField w) (aField w) (bField w) = w := by
  apply BitVec.eq_of_toNat_eq
  have hr := congrArg BitVec.toNat h
  rw [rsvdField, field_toNat] at hr
  have h0 : (0 : BitVec 3).toNat = 0 := rfl
  rw [packFields_toNat, opField, aField, bField, fField_toNat]
  simp only [field_toNat]
  omega

/-- Five fields as a word, RSVD among them (R60). -/
def packAll (op : BitVec 4) (r : BitVec 3) (f : BitVec 1) (a : Byte) (b : BitVec 32) : ReqWord := op ++ r ++ f ++ a ++ b

theorem packAll_toNat (op : BitVec 4) (r : BitVec 3) (f : BitVec 1) (a : Byte) (b : BitVec 32) :
    (packAll op r f a b).toNat = op.toNat * 2 ^ 44 + r.toNat * 2 ^ 41 + f.toNat * 2 ^ 40 + a.toNat * 2 ^ 32 + b.toNat := by
  have h : (packAll op r f a b).toNat = (op ++ r ++ f ++ a ++ b).toNat := rfl
  rw [h]
  simp only [toNat_append_mul]
  omega

theorem packAll_fields (w : ReqWord) :
    packAll (opField w) (rsvdField w) (BitVec.ofBool (fField w)) (aField w) (bField w) = w := by
  apply BitVec.eq_of_toNat_eq
  rw [packAll_toNat, BitVec.toNat_ofBool, fField_toNat, opField, rsvdField, aField, bField]
  simp only [field_toNat]
  omega

theorem packAll_and (op op' : BitVec 4) (r r' : BitVec 3) (f f' : BitVec 1) (a a' : Byte) (b b' : BitVec 32) :
    packAll op r f a b &&& packAll op' r' f' a' b' =
      packAll (op &&& op') (r &&& r') (f &&& f') (a &&& a') (b &&& b') := by
  show (op ++ r ++ f ++ a ++ b : BitVec (4 + 3 + 1 + 8 + 32)) &&& (op' ++ r' ++ f' ++ a' ++ b') = _
  simp only [BitVec.and_append]
  rfl

theorem packAll_inj {op op' : BitVec 4} {r r' : BitVec 3} {f f' : BitVec 1} {a a' : Byte} {b b' : BitVec 32} :
    packAll op r f a b = packAll op' r' f' a' b' ↔ op = op' ∧ r = r' ∧ f = f' ∧ a = a' ∧ b = b' := by
  constructor
  · intro h
    have h := congrArg BitVec.toNat h
    rw [packAll_toNat, packAll_toNat] at h
    refine ⟨?_, ?_, ?_, ?_, ?_⟩ <;> apply BitVec.eq_of_toNat_eq <;> omega
  · rintro ⟨rfl, rfl, rfl, rfl, rfl⟩; rfl

/-- A match and mask of rule R65, read field by field. -/
theorem and_eq_packAll (w : ReqWord) (mop op : BitVec 4) (mr r : BitVec 3) (mf f : BitVec 1) (ma a : Byte) (mb b : BitVec 32) :
    w &&& packAll mop mr mf ma mb = packAll op r f a b ↔
      opField w &&& mop = op ∧ rsvdField w &&& mr = r ∧ BitVec.ofBool (fField w) &&& mf = f ∧ aField w &&& ma = a ∧
        bField w &&& mb = b := by
  conv_lhs => lhs; rw [← packAll_fields w]
  rw [packAll_and, packAll_inj]

/-- The rows of rule R65 as fields: OP and RSVD always, F, A and B where the request does not use them. -/
theorem selects_iff_fields {p m : ReqWord} {op : BitVec 4} {mf : BitVec 1} {ma : Byte} {mb : BitVec 32}
    (hp : p = packAll op 0 0 0 0) (hm : m = packAll 0xF 0x7 mf ma mb) (w : ReqWord) :
    EncRow.selects ⟨p, m⟩ w = true ↔
      opField w = op ∧ rsvdField w = 0 ∧ BitVec.ofBool (fField w) &&& mf = 0 ∧ aField w &&& ma = 0 ∧ bField w &&& mb = 0 := by
  have h4 : ∀ x : BitVec 4, x &&& 0xF = x := by decide
  have h3 : ∀ x : BitVec 3, x &&& 0x7 = x := by decide
  rw [EncRow.selects, decide_eq_true_iff, hp, hm, and_eq_packAll, h4, h3]

end Sys2Proof
end

