-- ==== Sys2Proof/Laws/State.lean ====
section
/-! SUPPORT. What each update of the state leaves in each field, so that no proof unfolds a record update. -/

namespace Sys2Proof.Machine

@[simp] theorem acceptRequest_mode (i : Instr) (es : List Event) (s : State) : (acceptRequest i es s).mode = .busy := rfl
@[simp] theorem acceptRequest_op (i : Instr) (es : List Event) (s : State) : (acceptRequest i es s).op = some i := rfl
@[simp] theorem acceptRequest_q (i : Instr) (es : List Event) (s : State) : (acceptRequest i es s).q = es := rfl
@[simp] theorem acceptRequest_ptr (i : Instr) (es : List Event) (s : State) : (acceptRequest i es s).ptr = s.ptr := rfl
@[simp] theorem acceptRequest_fault (i : Instr) (es : List Event) (s : State) : (acceptRequest i es s).fault = s.fault := rfl
@[simp] theorem acceptRequest_port (i : Instr) (es : List Event) (s : State) : (acceptRequest i es s).port = s.port := rfl
@[simp] theorem acceptRequest_hostMem (i : Instr) (es : List Event) (s : State) : (acceptRequest i es s).hostMem = s.hostMem := rfl
@[simp] theorem acceptRequest_events (i : Instr) (es : List Event) (s : State) : (acceptRequest i es s).events = s.events := rfl
@[simp] theorem acceptRequest_expander (i : Instr) (es : List Event) (s : State) : (acceptRequest i es s).expander = s.expander := rfl
@[simp] theorem acceptRequest_view (i : Instr) (es : List Event) (s : State) : (acceptRequest i es s).view = s.view := rfl
@[simp] theorem acceptRequest_initOk (i : Instr) (es : List Event) (s : State) : (acceptRequest i es s).initOk = s.initOk := rfl
@[simp] theorem acceptRequest_draws (i : Instr) (es : List Event) (s : State) : (acceptRequest i es s).draws = s.draws := rfl
@[simp] theorem acceptRequest_elapsed (i : Instr) (es : List Event) (s : State) : (acceptRequest i es s).elapsed = s.elapsed := rfl

@[simp] theorem beginInit_mode (s : State) : (beginInit s).mode = s.mode := rfl
@[simp] theorem beginInit_op (s : State) : (beginInit s).op = s.op := rfl
@[simp] theorem beginInit_q (s : State) : (beginInit s).q = s.q := rfl
@[simp] theorem beginInit_ptr (s : State) : (beginInit s).ptr = s.ptr := rfl
@[simp] theorem beginInit_fault (s : State) : (beginInit s).fault = s.fault := rfl
@[simp] theorem beginInit_port (s : State) : (beginInit s).port = s.port := rfl
@[simp] theorem beginInit_hostMem (s : State) : (beginInit s).hostMem = s.hostMem := rfl
@[simp] theorem beginInit_events (s : State) : (beginInit s).events = s.events := rfl
@[simp] theorem beginInit_expander (s : State) : (beginInit s).expander = s.expander := rfl
@[simp] theorem beginInit_view (s : State) : (beginInit s).view = s.view.invalidate := rfl
@[simp] theorem beginInit_initOk (s : State) : (beginInit s).initOk = true := rfl
@[simp] theorem beginInit_draws (s : State) : (beginInit s).draws = s.draws := rfl
@[simp] theorem beginInit_elapsed (s : State) : (beginInit s).elapsed = s.elapsed := rfl

@[simp] theorem raiseFault_mode (why : DecodeFault) (w : ReqWord) (s : State) : (raiseFault why w s).mode = s.mode := rfl
@[simp] theorem raiseFault_op (why : DecodeFault) (w : ReqWord) (s : State) : (raiseFault why w s).op = s.op := rfl
@[simp] theorem raiseFault_q (why : DecodeFault) (w : ReqWord) (s : State) : (raiseFault why w s).q = s.q := rfl
@[simp] theorem raiseFault_ptr (why : DecodeFault) (w : ReqWord) (s : State) : (raiseFault why w s).ptr = s.ptr := rfl
@[simp] theorem raiseFault_fault (why : DecodeFault) (w : ReqWord) (s : State) : (raiseFault why w s).fault = ⟨faultCode why, w⟩ := rfl
@[simp] theorem raiseFault_port (why : DecodeFault) (w : ReqWord) (s : State) : (raiseFault why w s).port = s.port := rfl
@[simp] theorem raiseFault_hostMem (why : DecodeFault) (w : ReqWord) (s : State) : (raiseFault why w s).hostMem = s.hostMem := rfl
@[simp] theorem raiseFault_events (why : DecodeFault) (w : ReqWord) (s : State) : (raiseFault why w s).events = s.events := rfl
@[simp] theorem raiseFault_expander (why : DecodeFault) (w : ReqWord) (s : State) : (raiseFault why w s).expander = s.expander := rfl
@[simp] theorem raiseFault_view (why : DecodeFault) (w : ReqWord) (s : State) : (raiseFault why w s).view = s.view := rfl
@[simp] theorem raiseFault_initOk (why : DecodeFault) (w : ReqWord) (s : State) : (raiseFault why w s).initOk = s.initOk := rfl
@[simp] theorem raiseFault_draws (why : DecodeFault) (w : ReqWord) (s : State) : (raiseFault why w s).draws = s.draws := rfl
@[simp] theorem raiseFault_elapsed (why : DecodeFault) (w : ReqWord) (s : State) : (raiseFault why w s).elapsed = s.elapsed := rfl

@[simp] theorem State.controllerPowerUp_mode (s : State) : (s.controllerPowerUp).mode = s.mode := rfl
@[simp] theorem State.controllerPowerUp_op (s : State) : (s.controllerPowerUp).op = s.op := rfl
@[simp] theorem State.controllerPowerUp_q (s : State) : (s.controllerPowerUp).q = s.q := rfl
@[simp] theorem State.controllerPowerUp_ptr (s : State) : (s.controllerPowerUp).ptr = s.ptr := rfl
@[simp] theorem State.controllerPowerUp_fault (s : State) : (s.controllerPowerUp).fault = s.fault := rfl
@[simp] theorem State.controllerPowerUp_port (s : State) : (s.controllerPowerUp).port = s.port := rfl
@[simp] theorem State.controllerPowerUp_hostMem (s : State) : (s.controllerPowerUp).hostMem = s.hostMem := rfl
@[simp] theorem State.controllerPowerUp_events (s : State) : (s.controllerPowerUp).events = s.events := rfl
@[simp] theorem State.controllerPowerUp_expander (s : State) : (s.controllerPowerUp).expander = s.expander := rfl
@[simp] theorem State.controllerPowerUp_view (s : State) : (s.controllerPowerUp).view = { s.view with valid := false } := rfl
@[simp] theorem State.controllerPowerUp_initOk (s : State) : (s.controllerPowerUp).initOk = false := rfl
@[simp] theorem State.controllerPowerUp_draws (s : State) : (s.controllerPowerUp).draws = s.draws := rfl
@[simp] theorem State.controllerPowerUp_elapsed (s : State) : (s.controllerPowerUp).elapsed = s.elapsed := rfl

@[simp] theorem State.restart_mode (s : State) : (s.restart).mode = .idle := rfl
@[simp] theorem State.restart_op (s : State) : (s.restart).op = none := rfl
@[simp] theorem State.restart_q (s : State) : (s.restart).q = [] := rfl
@[simp] theorem State.restart_ptr (s : State) : (s.restart).ptr = 0 := rfl
@[simp] theorem State.restart_fault (s : State) : (s.restart).fault = ⟨0, 0⟩ := rfl
@[simp] theorem State.restart_port (s : State) : (s.restart).port = [] := rfl
@[simp] theorem State.restart_hostMem (s : State) : (s.restart).hostMem = s.hostMem := rfl
@[simp] theorem State.restart_events (s : State) : (s.restart).events = [] := rfl
@[simp] theorem State.restart_expander (s : State) : (s.restart).expander = none := rfl
@[simp] theorem State.restart_view (s : State) : (s.restart).view = s.view.invalidate := rfl
@[simp] theorem State.restart_initOk (s : State) : (s.restart).initOk = false := rfl
@[simp] theorem State.restart_draws (s : State) : (s.restart).draws = s.draws := rfl
@[simp] theorem State.restart_elapsed (s : State) : (s.restart).elapsed = s.elapsed := rfl

@[simp] theorem State.present_mode (w : ReqWord) (s : State) : (s.present w).mode = s.mode := rfl
@[simp] theorem State.present_op (w : ReqWord) (s : State) : (s.present w).op = s.op := rfl
@[simp] theorem State.present_q (w : ReqWord) (s : State) : (s.present w).q = s.q := rfl
@[simp] theorem State.present_ptr (w : ReqWord) (s : State) : (s.present w).ptr = s.ptr := rfl
@[simp] theorem State.present_fault (w : ReqWord) (s : State) : (s.present w).fault = s.fault := rfl
@[simp] theorem State.present_port (w : ReqWord) (s : State) : (s.present w).port = s.port ++ [w] := rfl
@[simp] theorem State.present_hostMem (w : ReqWord) (s : State) : (s.present w).hostMem = s.hostMem := rfl
@[simp] theorem State.present_events (w : ReqWord) (s : State) : (s.present w).events = s.events := rfl
@[simp] theorem State.present_expander (w : ReqWord) (s : State) : (s.present w).expander = s.expander := rfl
@[simp] theorem State.present_view (w : ReqWord) (s : State) : (s.present w).view = s.view := rfl
@[simp] theorem State.present_initOk (w : ReqWord) (s : State) : (s.present w).initOk = s.initOk := rfl
@[simp] theorem State.present_draws (w : ReqWord) (s : State) : (s.present w).draws = s.draws := rfl
@[simp] theorem State.present_elapsed (w : ReqWord) (s : State) : (s.present w).elapsed = s.elapsed := rfl

@[simp] theorem State.hostStore_mode (a : HostAddr) (b : Byte) (s : State) : (s.hostStore a b).mode = s.mode := rfl
@[simp] theorem State.hostStore_op (a : HostAddr) (b : Byte) (s : State) : (s.hostStore a b).op = s.op := rfl
@[simp] theorem State.hostStore_q (a : HostAddr) (b : Byte) (s : State) : (s.hostStore a b).q = s.q := rfl
@[simp] theorem State.hostStore_ptr (a : HostAddr) (b : Byte) (s : State) : (s.hostStore a b).ptr = s.ptr := rfl
@[simp] theorem State.hostStore_fault (a : HostAddr) (b : Byte) (s : State) : (s.hostStore a b).fault = s.fault := rfl
@[simp] theorem State.hostStore_port (a : HostAddr) (b : Byte) (s : State) : (s.hostStore a b).port = s.port := rfl
@[simp] theorem State.hostStore_hostMem (a : HostAddr) (b : Byte) (s : State) : (s.hostStore a b).hostMem = Memory.write s.hostMem a b := rfl
@[simp] theorem State.hostStore_events (a : HostAddr) (b : Byte) (s : State) : (s.hostStore a b).events = s.events := rfl
@[simp] theorem State.hostStore_expander (a : HostAddr) (b : Byte) (s : State) : (s.hostStore a b).expander = s.expander := rfl
@[simp] theorem State.hostStore_view (a : HostAddr) (b : Byte) (s : State) : (s.hostStore a b).view = s.view := rfl
@[simp] theorem State.hostStore_initOk (a : HostAddr) (b : Byte) (s : State) : (s.hostStore a b).initOk = s.initOk := rfl
@[simp] theorem State.hostStore_draws (a : HostAddr) (b : Byte) (s : State) : (s.hostStore a b).draws = s.draws := rfl
@[simp] theorem State.hostStore_elapsed (a : HostAddr) (b : Byte) (s : State) : (s.hostStore a b).elapsed = s.elapsed := rfl

@[simp] theorem placeRequest_mode (w : ReqWord) (s : State) : (placeRequest w s).mode = .idle := rfl
@[simp] theorem placeRequest_op (w : ReqWord) (s : State) : (placeRequest w s).op = s.op := rfl
@[simp] theorem placeRequest_q (w : ReqWord) (s : State) : (placeRequest w s).q = [] := rfl
@[simp] theorem placeRequest_ptr (w : ReqWord) (s : State) : (placeRequest w s).ptr = s.ptr := rfl
@[simp] theorem placeRequest_fault (w : ReqWord) (s : State) : (placeRequest w s).fault = ⟨0, 0⟩ := rfl
@[simp] theorem placeRequest_port (w : ReqWord) (s : State) : (placeRequest w s).port = w :: s.port := rfl
@[simp] theorem placeRequest_hostMem (w : ReqWord) (s : State) : (placeRequest w s).hostMem = s.hostMem := rfl
@[simp] theorem placeRequest_events (w : ReqWord) (s : State) : (placeRequest w s).events = s.events := rfl
@[simp] theorem placeRequest_expander (w : ReqWord) (s : State) : (placeRequest w s).expander = s.expander := rfl
@[simp] theorem placeRequest_view (w : ReqWord) (s : State) : (placeRequest w s).view = s.view := rfl
@[simp] theorem placeRequest_initOk (w : ReqWord) (s : State) : (placeRequest w s).initOk = s.initOk := rfl
@[simp] theorem placeRequest_draws (w : ReqWord) (s : State) : (placeRequest w s).draws = s.draws := rfl
@[simp] theorem placeRequest_elapsed (w : ReqWord) (s : State) : (placeRequest w s).elapsed = s.elapsed := rfl

@[simp] theorem emitBusWrite_mode (d : Draw) (a : Byte) (f : BusFrame) (rest : List Event) (s : State) : (emitBusWrite d a f rest s).mode = s.mode := rfl
@[simp] theorem emitBusWrite_op (d : Draw) (a : Byte) (f : BusFrame) (rest : List Event) (s : State) : (emitBusWrite d a f rest s).op = s.op := rfl
@[simp] theorem emitBusWrite_q (d : Draw) (a : Byte) (f : BusFrame) (rest : List Event) (s : State) : (emitBusWrite d a f rest s).q = rest := rfl
@[simp] theorem emitBusWrite_ptr (d : Draw) (a : Byte) (f : BusFrame) (rest : List Event) (s : State) : (emitBusWrite d a f rest s).ptr = s.ptr := rfl
@[simp] theorem emitBusWrite_fault (d : Draw) (a : Byte) (f : BusFrame) (rest : List Event) (s : State) : (emitBusWrite d a f rest s).fault = s.fault := rfl
@[simp] theorem emitBusWrite_port (d : Draw) (a : Byte) (f : BusFrame) (rest : List Event) (s : State) : (emitBusWrite d a f rest s).port = s.port := rfl
@[simp] theorem emitBusWrite_hostMem (d : Draw) (a : Byte) (f : BusFrame) (rest : List Event) (s : State) : (emitBusWrite d a f rest s).hostMem = s.hostMem := rfl
@[simp] theorem emitBusWrite_events (d : Draw) (a : Byte) (f : BusFrame) (rest : List Event) (s : State) : (emitBusWrite d a f rest s).events = s.events ++ [.busWrite a f] := rfl
@[simp] theorem emitBusWrite_expander (d : Draw) (a : Byte) (f : BusFrame) (rest : List Event) (s : State) : (emitBusWrite d a f rest s).expander = some (if transmitOk d then f.b3 else d.pins) := rfl
@[simp] theorem emitBusWrite_view (d : Draw) (a : Byte) (f : BusFrame) (rest : List Event) (s : State) : (emitBusWrite d a f rest s).view = viewAfterTransmit d f s := rfl
@[simp] theorem emitBusWrite_initOk (d : Draw) (a : Byte) (f : BusFrame) (rest : List Event) (s : State) : (emitBusWrite d a f rest s).initOk = (s.initOk && transmitOk d) := rfl
@[simp] theorem emitBusWrite_draws (d : Draw) (a : Byte) (f : BusFrame) (rest : List Event) (s : State) : (emitBusWrite d a f rest s).draws = s.draws + 1 := rfl
@[simp] theorem emitBusWrite_elapsed (d : Draw) (a : Byte) (f : BusFrame) (rest : List Event) (s : State) : (emitBusWrite d a f rest s).elapsed = s.elapsed + transmitMicros d := rfl

@[simp] theorem emitDelay_mode (d : Draw) (ms : Nat) (rest : List Event) (s : State) : (emitDelay d ms rest s).mode = s.mode := rfl
@[simp] theorem emitDelay_op (d : Draw) (ms : Nat) (rest : List Event) (s : State) : (emitDelay d ms rest s).op = s.op := rfl
@[simp] theorem emitDelay_q (d : Draw) (ms : Nat) (rest : List Event) (s : State) : (emitDelay d ms rest s).q = rest := rfl
@[simp] theorem emitDelay_ptr (d : Draw) (ms : Nat) (rest : List Event) (s : State) : (emitDelay d ms rest s).ptr = s.ptr := rfl
@[simp] theorem emitDelay_fault (d : Draw) (ms : Nat) (rest : List Event) (s : State) : (emitDelay d ms rest s).fault = s.fault := rfl
@[simp] theorem emitDelay_port (d : Draw) (ms : Nat) (rest : List Event) (s : State) : (emitDelay d ms rest s).port = s.port := rfl
@[simp] theorem emitDelay_hostMem (d : Draw) (ms : Nat) (rest : List Event) (s : State) : (emitDelay d ms rest s).hostMem = s.hostMem := rfl
@[simp] theorem emitDelay_events (d : Draw) (ms : Nat) (rest : List Event) (s : State) : (emitDelay d ms rest s).events = s.events ++ [.delay ms] := rfl
@[simp] theorem emitDelay_expander (d : Draw) (ms : Nat) (rest : List Event) (s : State) : (emitDelay d ms rest s).expander = s.expander := rfl
@[simp] theorem emitDelay_view (d : Draw) (ms : Nat) (rest : List Event) (s : State) : (emitDelay d ms rest s).view = viewAfterDelay rest s := rfl
@[simp] theorem emitDelay_initOk (d : Draw) (ms : Nat) (rest : List Event) (s : State) : (emitDelay d ms rest s).initOk = s.initOk := rfl
@[simp] theorem emitDelay_draws (d : Draw) (ms : Nat) (rest : List Event) (s : State) : (emitDelay d ms rest s).draws = s.draws + 1 := rfl
@[simp] theorem emitDelay_elapsed (d : Draw) (ms : Nat) (rest : List Event) (s : State) : (emitDelay d ms rest s).elapsed = s.elapsed + delayMicros ms d := rfl

end Sys2Proof.Machine
end

