-- ==== Sys2Proof/Laws/Framer.lean ====
section
/-! SUPPORT. What the framer's bytes are: nibbles beside control nibbles, recognised again (rules R90 to R93). -/

namespace Sys2Proof.Machine

/-- The pins a frame leaves E low on, the high nibble and RS of its first E-low byte, the low nibble and RS of its second. -/
theorem frame_pins : ∀ (v : Byte) (isData : Bool),
    (frame v isData).b0.getLsbD 2 = true ∧ (frame v isData).b1.getLsbD 2 = false ∧
    (frame v isData).b2.getLsbD 2 = true ∧ (frame v isData).b3.getLsbD 2 = false ∧
    (frame v isData).b1.extractLsb' 4 4 = v.extractLsb' 4 4 ∧ (frame v isData).b1.getLsbD 0 = isData ∧
    (frame v isData).b3.extractLsb' 4 4 = v.extractLsb' 0 4 ∧ (frame v isData).b3.getLsbD 0 = isData := by
  decide +kernel

/-- A byte is its two nibbles. -/
theorem nibbles_append : ∀ v : Byte, (v.extractLsb' 4 4 ++ v.extractLsb' 0 4 : BitVec 8) = v := by decide +kernel

/-- R93: the byte and the mode are recovered from the frame. -/
theorem frame_recovered : ∀ (v : Byte) (isData : Bool),
    frameValue (frame v isData) = v ∧ frameIsData (frame v isData) = isData := by
  decide +kernel

/-- The framer's output is recognised. -/
@[simp] theorem isFramed_frame (v : Byte) (isData : Bool) :
    isFramed (frame v isData) = true := by
  simp [isFramed, frame_recovered]

/-- Four bytes are a frame exactly where the framer gives them for some byte and mode. -/
theorem isFramed_iff (f : BusFrame) : isFramed f = true ↔ ∃ v isData, f = frame v isData := by
  constructor
  · intro h; exact ⟨_, _, of_decide_eq_true h⟩
  · rintro ⟨v, isData, rfl⟩; simp

end Sys2Proof.Machine
end

