-- ==== Sys2Proof/Laws/Memory.lean ====
section
/-! SUPPORT. Host memory: what a read gives after a write, and that every operation keeps the canonical form. -/

namespace Sys2Proof.Machine

theorem Memory.readNat_writeNat (m : Memory) (a k : Nat) (b : Byte) :
    Memory.readNat (Memory.writeNat m a b) k = if k = a then some b else Memory.readNat m k := by
  induction m with
  | nil => simp [Memory.writeNat, Memory.readNat, eq_comm]
  | cons c m ih =>
    simp only [Memory.writeNat]
    split
    · simp [Memory.readNat, eq_comm]
    · split
      · next h => subst h; by_cases h : c.1 = k <;> simp [Memory.readNat, h, Ne.symm]
      · next h => by_cases hk : c.1 = k <;> simp [Memory.readNat, ih, hk]; rintro rfl; exact absurd hk h

/-- A read after the host's write: the byte written, and every other address as before. -/
theorem Memory.read_write (m : Memory) (a k : HostAddr) (b : Byte) :
    Memory.read (Memory.write m a b) k = if k = a then some b else Memory.read m k := by
  simp only [Memory.read, Memory.write, Memory.readNat_writeNat, BitVec.toNat_inj]

theorem Memory.mem_writeNat {m : Memory} {a : Nat} {b : Byte} {c : Host.Cell} (h : c ∈ Memory.writeNat m a b) :
    c = (a, b) ∨ c ∈ m := by
  induction m with
  | nil => simp_all [Memory.writeNat]
  | cons d m ih =>
    simp only [Memory.writeNat] at h
    split at h
    · simp_all
    · split at h
      · rcases List.mem_cons.mp h with rfl | h <;> simp_all
      · rcases List.mem_cons.mp h with rfl | h
        · simp
        · rcases ih h with rfl | h <;> simp_all

theorem Memory.writeNat_rising {m : Memory} (h : m.Pairwise (fun x y => x.1 < y.1)) (a : Nat) (b : Byte) :
    (Memory.writeNat m a b).Pairwise (fun x y => x.1 < y.1) := by
  induction m with
  | nil => simp [Memory.writeNat]
  | cons c m ih =>
    obtain ⟨hc, hm⟩ := List.pairwise_cons.mp h
    simp only [Memory.writeNat]
    split
    · next hlt =>
      refine List.pairwise_cons.mpr ⟨fun d hd => ?_, h⟩
      rcases List.mem_cons.mp hd with rfl | hd
      · exact hlt
      · exact Nat.lt_trans hlt (hc d hd)
    · split
      · next heq => exact List.pairwise_cons.mpr ⟨fun d hd => heq ▸ hc d hd, hm⟩
      · next hge hne =>
        refine List.pairwise_cons.mpr ⟨fun d hd => ?_, ih hm⟩
        rcases Memory.mem_writeNat hd with rfl | hd
        · exact Nat.lt_of_le_of_ne (Nat.le_of_not_lt hge) hne
        · exact hc d hd

/-- The host's write keeps the canonical form; a read changes nothing. -/
theorem Memory.write_wf {m : Memory} (h : Memory.wf m) (a : HostAddr) (b : Byte) : Memory.wf (Memory.write m a b) :=
  ⟨Memory.writeNat_rising h.1 _ _, fun c hc => by
    rcases Memory.mem_writeNat hc with rfl | hc
    · exact a.isLt
    · exact h.2 c hc⟩

/-- The memory after reset is in canonical form. -/
theorem State.reset_memory_wf : Memory.wf State.reset.hostMem := by simp [Memory.wf, State.reset]

end Sys2Proof.Machine
end

