-- ==== Sys2Proof/Laws/PerInstr.lean ====
section
/-! SUPPORT. The per-instruction family RowSelected: a request's word is selected by the request's own row of rule R65. -/

namespace Sys2Proof.Laws

/-- The encoding of a request matches its row of the opcode table. -/
def RowSelected.Statement (i : Instr) : Prop := encode i &&& (rowOf i).mask = (rowOf i).pattern

/-- A packed word with its used fields free is selected by a row of rule R65. -/
theorem packFields_selected {r : EncRow} {op : BitVec 4} {mf : BitVec 1} {ma : Byte} {mb : BitVec 32}
    (hp : r.pattern = packAll op 0 0 0 0) (hm : r.mask = packAll 0xF 0x7 mf ma mb) {f : Bool} {a : Byte} {b : BitVec 32}
    (hf : BitVec.ofBool f &&& mf = 0) (ha : a &&& ma = 0) (hb : b &&& mb = 0) :
    packFields op f a b &&& r.mask = r.pattern := by
  have h := (selects_iff_fields hp hm (packFields op f a b)).mpr
    ⟨opField_packFields .., rsvdField_packFields .., by simpa using hf, by simpa using ha, by simpa using hb⟩
  exact of_decide_eq_true h

theorem RowSelected.frame (isData : Bool) (value : Byte) : RowSelected.Statement (.frame isData value) :=
  packFields_selected (r := frameRow) (mf := 0) (ma := 0) (mb := 0xFFFFFFFF) rfl rfl (by simp) (by simp) (by simp)
theorem RowSelected.init : RowSelected.Statement .init := rfl
theorem RowSelected.clear : RowSelected.Statement .clear := rfl
theorem RowSelected.setCursor (row : BitVec 32) (col : Byte) : RowSelected.Statement (.setCursor row col) :=
  packFields_selected (r := setCursorRow) (mf := 1) (ma := 0) (mb := 0) rfl rfl rfl (by simp) (by simp)
theorem RowSelected.sendChar (c : Byte) : RowSelected.Statement (.sendChar c) :=
  packFields_selected (r := sendCharRow) (mf := 1) (ma := 0) (mb := 0xFFFFFFFF) rfl rfl rfl (by simp) (by simp)
theorem RowSelected.sendString (ptr : HostAddr) : RowSelected.Statement (.sendString ptr) :=
  packFields_selected (r := sendStringRow) (mf := 1) (ma := 0xFF) (mb := 0) rfl rfl rfl (by simp) (by simp)
theorem RowSelected.sendInt (n : BitVec 32) : RowSelected.Statement (.sendInt n) :=
  packFields_selected (r := sendIntRow) (mf := 1) (ma := 0xFF) (mb := 0) rfl rfl rfl (by simp) (by simp)
theorem RowSelected.shiftRight : RowSelected.Statement .shiftRight := rfl
theorem RowSelected.shiftLeft : RowSelected.Statement .shiftLeft := rfl
theorem RowSelected.scrollLeft : RowSelected.Statement .scrollLeft := rfl

end Sys2Proof.Laws
end

