-- ==== Sys2Proof/Laws/View.lean ====
section
/-! SUPPORT. The controller view: what executing a byte can change, and that an invalid view ignores the pins. -/

namespace Sys2Proof.Machine

@[simp] theorem ControllerView.invalidate_valid (c : ControllerView) : c.invalidate.valid = false := rfl
@[simp] theorem ControllerView.afterInit_valid (c : ControllerView) : c.afterInit.valid = true := rfl

/-- A byte on the pins does nothing to an invalid view (R143: "While `valid`"). -/
theorem ControllerView.seeByte_invalid {c : ControllerView} (h : c.valid = false) (b : Byte) : c.seeByte b = c := by
  simp [ControllerView.seeByte, h]

/-- A byte on which E does not fall only changes the pins (R143). -/
theorem ControllerView.seeByte_hold {c : ControllerView} {b : Byte} (hv : c.valid = true)
    (h : c.pins.getLsbD 2 = false ∨ b.getLsbD 2 = true) : c.seeByte b = { c with pins := b } := by
  rcases h with h | h <;> simp only [ControllerView.seeByte, hv, h] <;> simp [hv]

/-- A byte on which E falls latches its nibble and RS (R143). -/
theorem ControllerView.seeByte_fall {c : ControllerView} {b : Byte} (hv : c.valid = true)
    (hp : c.pins.getLsbD 2 = true) (hb : b.getLsbD 2 = false) :
    c.seeByte b = { c.latch (b.extractLsb' 4 4) (b.getLsbD 0) with pins := b } := by
  simp only [ControllerView.seeByte, hv, hp, hb]; rfl

/-- A frame does nothing to an invalid view. -/
theorem ControllerView.seeFrame_invalid {c : ControllerView} (h : c.valid = false) (f : BusFrame) : c.seeFrame f = c := by
  simp [ControllerView.seeFrame, ControllerView.seeByte_invalid h]

/-- Executing a byte commutes with what the pins and the nibble latch hold: it reads and writes neither. -/
theorem ControllerView.execute_latch (c : ControllerView) (v : Byte) (rs : Bool) (p : Byte) (ph : Phase) (n : Nibble) (r : Bool) :
    ControllerView.execute { c with pins := p, phase := ph, held := n, heldRs := r } v rs =
      { c.execute v rs with pins := p, phase := ph, held := n, heldRs := r } := by
  simp only [ControllerView.execute]
  repeat' split
  · simp only [ControllerView.dataWrite]; split <;> rfl
  all_goals first
    | rfl
    | (simp only [ControllerView.setAddr]; split <;> rfl)

/-- Executing a byte leaves the pins and the nibble latch alone. -/
theorem ControllerView.execute_frame (c : ControllerView) (v : Byte) (rs : Bool) :
    (c.execute v rs).pins = c.pins ∧ (c.execute v rs).phase = c.phase ∧
    (c.execute v rs).held = c.held ∧ (c.execute v rs).heldRs = c.heldRs := by
  have h := ControllerView.execute_latch c v rs c.pins c.phase c.held c.heldRs
  constructor <;> [skip; constructor <;> [skip; constructor]] <;> rw [show c.execute v rs = _ from h]

/-- The address after a data write is in a row span (R147). -/
theorem ddramIndex_next : ∀ a : BitVec 7, (ddramIndex a).isSome = true →
    (ddramIndex (nextAddr a)).isSome = true ∧ (ddramIndex (prevAddr a)).isSome = true := by
  decide +kernel

/-- Executing a byte never makes an invalid view valid (R153: only an INIT does). -/
theorem ControllerView.execute_valid {c : ControllerView} {v : Byte} {rs : Bool} (h : (c.execute v rs).valid = true) :
    c.valid = true := by
  simp only [ControllerView.execute, ControllerView.dataWrite, ControllerView.setAddr] at h
  repeat' split at h
  all_goals first
    | exact h
    | (simp at h; exact h.1)
    | simp at h

end Sys2Proof.Machine
end

