-- ==== Sys2Proof/Laws/Step.lean ====
section
/-! SUPPORT. Once, everything an acceptance and a step can do (rule R21); invariants are derived from these. -/

namespace Sys2Proof.Machine

/-- What accepting a request leaves in the view (R142). -/
def viewAtAcceptance (i : Instr) (c : ControllerView) : ControllerView :=
  match i with
  | .init => c.invalidate
  | _ => c

/-- What accepting a request leaves in `ptr` (R19, R21). -/
def ptrAtAcceptance (i : Instr) (p : HostAddr) : HostAddr :=
  match i with
  | .sendString b => b
  | _ => p

/-- What accepting a request leaves in `initOk`. -/
def initOkAtAcceptance (i : Instr) (b : Bool) : Bool :=
  match i with
  | .init => true
  | _ => b

/-- Every request is accepted in every state, and this is all it does (R21). -/
theorem exec_eq (i : Instr) (s : State) :
    exec i s = .next
      { s with
        mode := .busy
        op := some i
        q := initialExpansion i
        ptr := ptrAtAcceptance i s.ptr
        view := viewAtAcceptance i s.view
        initOk := initOkAtAcceptance i s.initOk } := by
  cases i <;> rfl

/-- What a step that answers a next state did (R21): took an illegal word, took a request, emitted the queue's head, ended a
request, or refilled a string. -/
theorem step_cases {s t : State} (h : step s = .next t) :
    s.fault.code = 0 ∧
    ((∃ w held why, s.mode = .idle ∧ s.port = w :: held ∧ decode w = .illegal why ∧ t = raiseFault why w { s with port := held }) ∨
     (∃ w held i, s.mode = .idle ∧ s.port = w :: held ∧ decode w = .request i ∧ exec i { s with port := held } = .next t) ∨
     (∃ e rest, s.mode = .busy ∧ s.q = e :: rest ∧ t = emitEvent (Config.draw s.draws) e rest s) ∨
     (s.mode = .busy ∧ s.q = [] ∧ t = { s with mode := .idle }) ∨
     (∃ p b, s.mode = .busy ∧ s.q = [] ∧ s.op = some (.sendString p) ∧ Memory.read s.hostMem s.ptr = some b ∧ b ≠ 0x00 ∧
       t = { s with q := stringCharEvents b, ptr := s.ptr + 1 })) := by
  simp only [step, sequencerStep] at h
  split at h
  · cases h
  · next hc =>
    refine ⟨Classical.not_not.mp hc, ?_⟩
    split at h
    · next hm =>
      split at h
      · cases h
      · next w held hp =>
        simp only [takeWord] at h
        split at h
        · next why hd => cases h; exact .inl ⟨w, held, why, hm, hp, hd, rfl⟩
        · next i hd => exact .inr (.inl ⟨w, held, i, hm, hp, hd, h⟩)
    · next hm =>
      split at h
      · next e rest hq => cases h; exact .inr (.inr (.inl ⟨e, rest, hm, hq, rfl⟩))
      · next hq =>
        simp only [finishOrRefill] at h
        split at h
        · next p hop =>
          simp only [refillString] at h
          split at h
          · cases h
          · next b hb =>
            cases h
            by_cases hz : b = 0x00
            · exact .inr (.inr (.inr (.inl ⟨hm, hq, by simp [hz]⟩)))
            · exact .inr (.inr (.inr (.inr ⟨p, b, hm, hq, hop, hb, hz, if_neg hz⟩)))
        · cases h; exact .inr (.inr (.inr (.inl ⟨hm, hq, rfl⟩)))

/-- Emitting an event: the queue loses its head, the stream gains it, and the adapter is otherwise as before. -/
theorem emitEvent_adapter (d : Draw) (e : Event) (rest : List Event) (s : State) :
    (emitEvent d e rest s).mode = s.mode ∧ (emitEvent d e rest s).op = s.op ∧ (emitEvent d e rest s).q = rest ∧
    (emitEvent d e rest s).ptr = s.ptr ∧ (emitEvent d e rest s).fault = s.fault ∧ (emitEvent d e rest s).port = s.port ∧
    (emitEvent d e rest s).hostMem = s.hostMem ∧ (emitEvent d e rest s).events = s.events ++ [e] := by
  cases e <;> simp [emitEvent]

end Sys2Proof.Machine
end

