-- ==== Sys2Proof/Laws/Run.lean ====
section
/-! SUPPORT. Runs of several steps, and emitting a queue with its draws. -/

namespace Sys2Proof.Machine

@[simp] theorem run_zero (s : State) : s.run 0 = .next s := rfl

/-- A run is its first step, then the rest. -/
theorem run_succ (k : Nat) (s : State) :
    s.run (k + 1) = match step s with
      | .next t => t.run k
      | .fault f => .fault f
      | .refused r => .refused r := by
  cases hs : step s <;>
    (simp only [State.run, Host.Core.run]; rw [show Sys2Proof.core.step s = _ from hs]) <;> rfl

/-- A run goes on from where a shorter one ended. -/
theorem run_add {j : Nat} (k : Nat) {s t : State} (h : s.run j = .next t) : s.run (j + k) = t.run k := by
  induction j generalizing s with
  | zero => cases h; simp
  | succ j ih =>
    rw [Nat.succ_add, run_succ]
    rw [run_succ] at h
    split at h
    · next u hu => exact ih h
    · cases h
    · cases h

/-- A step at a BUSY, unfaulted adapter with events left emits the head of the queue (R21). -/
theorem step_emit {s : State} {e : Event} {rest : List Event} (h0 : s.fault.code = 0) (h1 : s.mode = .busy)
    (h2 : s.q = e :: rest) : step s = .next (emitEvent (Config.draw s.draws) e rest s) := by
  simp [step, sequencerStep, h0, h1, h2]

/-- Every emitted event takes one draw. -/
@[simp] theorem emitEvent_draws (d : Draw) (e : Event) (rest : List Event) (s : State) :
    (emitEvent d e rest s).draws = s.draws + 1 := by cases e <;> rfl

@[simp] theorem nextDraws_length (s : State) (n : Nat) : (s.nextDraws n).length = n := by simp [State.nextDraws]

/-- The draws ahead, after one is taken. -/
theorem nextDraws_succ (s : State) (n : Nat) {t : State} (h : t.draws = s.draws + 1) :
    s.nextDraws (n + 1) = Config.draw s.draws :: t.nextDraws n := by
  simp only [State.nextDraws, List.range_succ_eq_map, List.map_cons, List.map_map]
  congr 1
  apply List.map_congr_left
  intro k _
  simp only [Function.comp_apply, h, Nat.succ_eq_add_one]
  congr 1
  omega

/-- Emitting a whole queue: the stream gains it, and the adapter is otherwise as before. -/
theorem emitAll_adapter (ds : List Draw) (s : State) (h : ds.length = s.q.length) :
    (s.emitAll ds).q = [] ∧ (s.emitAll ds).events = s.events ++ s.q ∧ (s.emitAll ds).mode = s.mode ∧
    (s.emitAll ds).op = s.op ∧ (s.emitAll ds).ptr = s.ptr ∧ (s.emitAll ds).fault = s.fault ∧
    (s.emitAll ds).port = s.port ∧ (s.emitAll ds).hostMem = s.hostMem := by
  induction ds generalizing s with
  | nil =>
    have hq : s.q = [] := by simpa using h.symm
    simp [State.emitAll, hq]
  | cons d ds ih =>
    match hq : s.q with
    | [] => simp [hq] at h
    | e :: rest =>
      have ha := emitEvent_adapter d e rest s
      simp only [State.emitAll, hq]
      have hr := ih (emitEvent d e rest s) (by rw [ha.2.2.1]; simpa [hq] using h)
      simp only [ha] at hr
      simpa using hr

/-- Emitting a whole queue takes at least its delays and a microsecond for each frame (R164, R165). -/
theorem emitAll_elapsed (ds : List Draw) (s : State) (h : ds.length = s.q.length) :
    s.elapsed + 1000 * delayTotal s.q + frameCount s.q ≤ (s.emitAll ds).elapsed := by
  induction ds generalizing s with
  | nil =>
    have hq : s.q = [] := by simpa using h.symm
    simp [State.emitAll, hq, delayTotal, frameCount]
  | cons d ds ih =>
    match hq : s.q with
    | [] => simp [hq] at h
    | e :: rest =>
      have ha := emitEvent_adapter d e rest s
      simp only [State.emitAll, hq]
      have hr := ih (emitEvent d e rest s) (by rw [ha.2.2.1]; simpa [hq] using h)
      rw [ha.2.2.1] at hr
      cases e <;>
        simp only [emitEvent, emitBusWrite_elapsed, emitDelay_elapsed, delayTotal, delayOf, frameCount, transmitMicros,
          delayMicros] at * <;> omega

end Sys2Proof.Machine
end

