-- ==== Sys2Proof/Machine/Assembler.lean ====
section
/-! DEFINITION. The request syntax of rules R76 and R77: one line of text to one request. It has no effect on the machine;
log entry 28 says what the rule leaves open. -/

namespace Sys2Proof.Machine

/-- A digit of the base, by its character. -/
def digitOf (base : Nat) (c : Char) : Option Nat :=
  let d :=
    if '0' ≤ c ∧ c ≤ '9' then c.toNat - 48
    else if 'a' ≤ c ∧ c ≤ 'f' then c.toNat - 87
    else if 'A' ≤ c ∧ c ≤ 'F' then c.toNat - 55
    else base
  if d < base then some d else none

/-- A run of digits in the base, read after the value `acc`. -/
def digitRun (base : Nat) : List Char → Nat → Option Nat
  | [], acc => some acc
  | c :: cs, acc =>
    match digitOf base c with
    | some d => digitRun base cs (acc * base + d)
    | none => none

/-- A number: decimal, or hexadecimal with `0x` (R76). -/
def numberOf : List Char → Option Nat
  | [] => none
  | ['0', 'x'] => none
  | '0' :: 'x' :: cs => digitRun 16 cs 0
  | cs => digitRun 10 cs 0

/-- An operand: a number, a negative number, or a character for its byte code (R76). DESIGN CHOICE (log entry 28): R76 does not
say which operands are character operands, and the form is read in every position, `row`, `addr` and `n` too; a character's
byte code is its code point, and one above 255 has none and is no operand. -/
def operandOf : List Char → Option Int
  | ['\'', c, '\''] => if c.toNat < 256 then some c.toNat else none
  | '-' :: cs => (numberOf cs).map fun n => -(n : Int)
  | cs => (numberOf cs).map fun n => (n : Int)

/-- A space or a tab. -/
def isBlank (c : Char) : Bool := c = ' ' || c = '\t'

/-- Text without blanks at its ends. -/
def trimBlanks (cs : List Char) : List Char := ((cs.dropWhile isBlank).reverse.dropWhile isBlank).reverse

/-- Operands are separated by commas (R76); a comma between quotes is a character. `cur` is the operand being read. -/
def splitOperands : List Char → List Char → List (List Char)
  | [], cur => [cur]
  | '\'' :: c :: '\'' :: cs, cur => splitOperands cs (cur ++ ['\'', c, '\''])
  | c :: cs, cur => if c = ',' then cur :: splitOperands cs [] else splitOperands cs (cur ++ [c])

/-- All operands of a line's rest; none where one is no operand. -/
def operandsOf (cs : List Char) : Option (List Int) :=
  if trimBlanks cs = [] then some [] else (splitOperands cs []).mapM fun o => operandOf (trimBlanks o)

/-- `v`, `col` and `c` are 0..255 (R76). -/
def byteOperand (x : Int) : Option Byte := if 0 ≤ x ∧ x < 2 ^ 8 then some (BitVec.ofInt 8 x) else none

/-- `row` and `addr` are 0..2^32−1 (R76). -/
def wordOperand (x : Int) : Option (BitVec 32) := if 0 ≤ x ∧ x < 2 ^ 32 then some (BitVec.ofInt 32 x) else none

/-- `n` is −2^31..2^31−1 (R76). -/
def signedOperand (x : Int) : Option (BitVec 32) := if -2 ^ 31 ≤ x ∧ x < 2 ^ 31 then some (BitVec.ofInt 32 x) else none

/-- The mnemonics of rules R76 and R77. -/
inductive Mnemonic where
  | frameC | frameD | init | clear | setCursor | sendChar | sendString | sendInt | shiftRight | shiftLeft | scrollLeft
  | cmd | data
  deriving DecidableEq, Repr

/-- Each mnemonic's spelling (R76, R77). -/
def mnemonicTable : List (List Char × Mnemonic) :=
  [(['F','R','A','M','E','.','C'], .frameC), (['F','R','A','M','E','.','D'], .frameD), (['I','N','I','T'], .init),
   (['C','L','E','A','R'], .clear), (['S','E','T','_','C','U','R','S','O','R'], .setCursor),
   (['S','E','N','D','_','C','H','A','R'], .sendChar), (['S','E','N','D','_','S','T','R','I','N','G'], .sendString),
   (['S','E','N','D','_','I','N','T'], .sendInt), (['S','H','I','F','T','_','R','I','G','H','T'], .shiftRight),
   (['S','H','I','F','T','_','L','E','F','T'], .shiftLeft), (['S','C','R','O','L','L','_','L','E','F','T'], .scrollLeft),
   (['C','M','D'], .cmd), (['D','A','T','A'], .data)]

/-- The request of a mnemonic and its operands (R76, R77); none where an operand is missing, extra or out of range. -/
def requestOf : Mnemonic → List Int → Option Instr
  | .frameC, [v] => (byteOperand v).map (.frame false ·)
  | .frameD, [v] => (byteOperand v).map (.frame true ·)
  | .cmd, [v] => (byteOperand v).map pseudoCmd
  | .data, [v] => (byteOperand v).map pseudoData
  | .init, [] => some .init
  | .clear, [] => some .clear
  | .setCursor, [row, col] =>
    match wordOperand row, byteOperand col with
    | some r, some c => some (.setCursor r c)
    | _, _ => none
  | .sendChar, [c] => (byteOperand c).map .sendChar
  | .sendString, [p] => (wordOperand p).map .sendString
  | .sendInt, [n] => (signedOperand n).map .sendInt
  | .shiftRight, [] => some .shiftRight
  | .shiftLeft, [] => some .shiftLeft
  | .scrollLeft, [] => some .scrollLeft
  | _, _ => none

/-- The request a line stands for (R76): mnemonic, blanks, operands. -/
def parseLine (line : List Char) : Option Instr :=
  let text := trimBlanks line
  let name := text.takeWhile fun c => !isBlank c
  match mnemonicTable.find? (fun p => p.1 = name), operandsOf (text.drop name.length) with
  | some p, some args => requestOf p.2 args
  | _, _ => none

/-- The request word of a line (R76, R78). -/
def assemble (line : List Char) : Option ReqWord := (parseLine line).map encode

end Sys2Proof.Machine
end

