-- ==== Sys2Proof/Tests/Slice0.lean ====
section
/-! SUPPORT. Tests with results written out from the spec: its encodings (R60, R78), its vectors (95_test_vectors.md) and its
rules; and the witnesses of the statements' hypotheses. -/

namespace Sys2Proof.Tests

open Sys2Proof.Machine

/-- What holds of the next state an outcome answers. -/
def nextHas (o : Host.Outcome State Fault Refusal) (p : State → Bool) : Bool :=
  match o with
  | .next s => p s
  | _ => false

/-- The fault an outcome stops with. -/
def stopsWith (o : Host.Outcome State Fault Refusal) (f : Fault) : Bool :=
  match o with
  | .fault g => decide (g = f)
  | _ => false

/-- A state whose next step takes the word `w`. -/
def presenting (w : ReqWord) : State := { State.reset with port := [w] }

/-- The same with host memory `m`. -/
def presentingWith (m : Memory) (w : ReqWord) : State := { presenting w with hostMem := m }

/-- A BUSY state that runs `i` with the queue `es`. -/
def running (i : Instr) (es : List Event) : State := { State.reset with mode := .busy, op := some i, q := es }

/-- A valid view with the address at `ac`. -/
def viewAt (ac : BitVec 7) : ControllerView := { ControllerView.reset.afterInit with ac := ac }

/-- The draws of a transmit that succeeds. -/
def goodDraw : Draw := ⟨.success, 0, 0, 0⟩

/-- The draws of a transmit that fails. -/
def badDraw : Draw := ⟨.failure, 0, 0, 0⟩

/-! Well-formed words: one refused word for each check (R62 to R64). -/

theorem test_wellformed_set_cursor : reqWellFormed 0x300500000001 = true := by decide
theorem test_illformed_op : opLegal 0xA00000000000 = false ∧ reqWellFormed 0xA00000000000 = false := by decide
theorem test_illformed_rsvd : rsvdZero 0x780000000000 = false ∧ reqWellFormed 0x780000000000 = false := by decide
theorem test_illformed_f : reqWellFormed 0x310500000000 = false := by decide
theorem test_illformed_a : reqWellFormed 0x500100000100 = false := by decide
theorem test_illformed_b : reqWellFormed 0x404100000001 = false := by decide

/-! Decoding: words written out from rules R60 to R62 and R78. -/

theorem test_decode_frame_command : decode 0x003000000000 = .request (.frame false 0x30) := by decide
theorem test_decode_frame_data : decode 0x014100000000 = .request (.frame true 0x41) := by decide
theorem test_decode_init : decode 0x100000000000 = .request .init := by decide
theorem test_decode_clear : decode 0x200000000000 = .request .clear := by decide
theorem test_decode_set_cursor : decode 0x300500000001 = .request (.setCursor 1 5) := by decide
theorem test_decode_send_char : decode 0x405800000000 = .request (.sendChar 0x58) := by decide
theorem test_decode_send_string : decode 0x5000DEADBEEF = .request (.sendString 0xDEADBEEF) := by decide
theorem test_decode_send_int : decode 0x6000FFFFFFFF = .request (.sendInt (-1)) := by decide
theorem test_decode_shift_right : decode 0x700000000000 = .request .shiftRight := by decide
theorem test_decode_shift_left : decode 0x800000000000 = .request .shiftLeft := by decide
theorem test_decode_scroll_left : decode 0x900000000000 = .request .scrollLeft := by decide
/-- V-DEC-3: RSVD bit 41. -/
theorem test_decode_rsvd : decode 0x020000000000 = .illegal .reservedNonzero := by decide
/-- V-DEC-7: F in SET_CURSOR. -/
theorem test_decode_f : decode 0x3100000000FF = .illegal .reservedNonzero := by decide
/-- V-DEC-11: ILLEGAL_OP is checked before the reserved fields. -/
theorem test_decode_illegal_op : decode 0xF12345678901 = .illegal .illegalOp := by decide
/-- R78: `SEND_INT 123`. -/
theorem test_encode_send_int : encode (.sendInt 123) = 0x60000000007B := by decide
theorem test_decode_table_word : decodeTableWord 48 0x300500000001 = some (.setCursor 1 5) := by decide

/-! The assembler (R76 to R78). -/

theorem test_assemble_cursor :
    assemble ['S','E','T','_','C','U','R','S','O','R',' ','1',',',' ','5'] = some 0x300500000001 := by decide
theorem test_assemble_char :
    assemble ['F','R','A','M','E','.','D',' ','\'','A','\''] = some 0x014100000000 := by decide
theorem test_assemble_negative : assemble ['S','E','N','D','_','I','N','T',' ','-','1'] = some 0x6000FFFFFFFF := by decide
theorem test_assemble_pseudo : assemble ['C','M','D',' ','0','x','3','0'] = some 0x003000000000 := by decide
/-- A character without a byte code is no operand; with one it is read in every position (log entry 28). -/
theorem test_assemble_wide_char : assemble (['S','E','N','D','_','I','N','T',' ','\''] ++ [Char.ofNat 256, '\'']) = none ∧
    assemble ['S','E','N','D','_','I','N','T',' ','\'','A','\''] = some 0x600000000041 := by decide
theorem test_assemble_range : assemble ['D','A','T','A',' ','2','5','6'] = none := by decide

/-! The framer: V-FR-5 (not the source's own value, C1), V-FR-20, V-FR-22. -/

theorem test_frame_30 : frame 0x30 false = ⟨0x3C, 0x38, 0x0C, 0x08⟩ := by decide
theorem test_frame_0f_data : frame 0x0F true = ⟨0x0D, 0x09, 0xFD, 0xF9⟩ := by decide
theorem test_frame_a5 : frame 0xA5 false = ⟨0xAC, 0xA8, 0x5C, 0x58⟩ := by decide
theorem test_control_class : controlClass 0x5D = some (true, true) ∧ controlClass 0x50 = none := by decide

/-! Expansions: V-INIT, V-CUR-8, V-CUR-12, V-TXT-14, V-TXT-15, V-TXT-16, V-TXT-17, V-CSS-4. -/

theorem test_init_events : initEvents =
    [.delay 50, .busWrite 0x4E ⟨0x3C, 0x38, 0x0C, 0x08⟩, .delay 5, .busWrite 0x4E ⟨0x3C, 0x38, 0x0C, 0x08⟩, .delay 1,
     .busWrite 0x4E ⟨0x3C, 0x38, 0x0C, 0x08⟩, .delay 10, .busWrite 0x4E ⟨0x2C, 0x28, 0x0C, 0x08⟩, .delay 1,
     .busWrite 0x4E ⟨0x2C, 0x28, 0x8C, 0x88⟩, .delay 1, .busWrite 0x4E ⟨0x0C, 0x08, 0xCC, 0xC8⟩, .delay 1,
     .busWrite 0x4E ⟨0x0C, 0x08, 0x1C, 0x18⟩, .delay 1, .busWrite 0x4E ⟨0x0C, 0x08, 0x6C, 0x68⟩, .delay 100] := by decide
theorem test_cursor_column_bleeds : cursorEvents 0 0x40 = [.busWrite 0x4E ⟨0xCC, 0xC8, 0x0C, 0x08⟩, .delay 1] := by decide
theorem test_cursor_row_two : cursorEvents 2 3 = [.busWrite 0x4E ⟨0xCC, 0xC8, 0x3C, 0x38⟩, .delay 1] := by decide
theorem test_int_123 : intBytesWith true (fun _ => []) 123 = [0x31, 0x32, 0x33] := by decide
theorem test_int_zero_digit : intBytesWith true (fun _ => []) 0 = [0x30] := by decide
theorem test_int_zero_none : intBytesWith false (fun _ => []) 0 = [] := by decide
theorem test_int_max : intBytesWith true (fun _ => []) 0x7FFFFFFF =
    [0x32, 0x31, 0x34, 0x37, 0x34, 0x38, 0x33, 0x36, 0x34, 0x37] := by decide
theorem test_int_negative : intBytesWith true (fun n => [n.extractLsb' 0 8]) 0x80000000 = [0x00] := by decide
theorem test_int_events : intEventsOf [0x37] = [.busWrite 0x4E ⟨0x3D, 0x39, 0x7D, 0x79⟩, .delay 1] := by decide
theorem test_scroll_events : scrollEvents.length = 80 ∧ delayTotal scrollEvents = 30000 ∧
    scrollEvents.take 2 = [.busWrite 0x4E ⟨0x1C, 0x18, 0x8C, 0x88⟩, .delay 750] := by decide
theorem test_init_delays : delayTotal initEvents = 170 ∧ frameCount initEvents = 8 := by decide

/-! Meanings and steps. -/

theorem test_exec_frame : nextHas (exec (.frame true 0x41) State.reset) fun s =>
    s.q = [.busWrite 0x4E ⟨0x4D, 0x49, 0x1D, 0x19⟩] && s.mode = .busy := by decide
theorem test_exec_init_invalidates : nextHas (exec .init { State.reset with view := viewAt 3 }) fun s =>
    s.q.length = 17 && !s.view.valid && s.initOk := by decide
theorem test_exec_clear : nextHas (exec .clear State.reset) fun s =>
    s.q = [.busWrite 0x4E ⟨0x0C, 0x08, 0x1C, 0x18⟩, .delay 1] := by decide
theorem test_exec_set_cursor : nextHas (exec (.setCursor 1 5) State.reset) fun s =>
    s.q = [.busWrite 0x4E ⟨0xCC, 0xC8, 0x5C, 0x58⟩, .delay 1] := by decide
theorem test_exec_send_char : nextHas (exec (.sendChar 0x58) State.reset) fun s =>
    s.q = [.busWrite 0x4E ⟨0x5D, 0x59, 0x8D, 0x89⟩] := by decide
theorem test_exec_send_string : nextHas (exec (.sendString 0x100) State.reset) fun s => s.q = [] && s.ptr = 0x100 := by decide
theorem test_exec_send_int : nextHas (exec (.sendInt 10) State.reset) fun s =>
    s.q = [.busWrite 0x4E ⟨0x3D, 0x39, 0x1D, 0x19⟩, .busWrite 0x4E ⟨0x3D, 0x39, 0x0D, 0x09⟩, .delay 1] := by decide
theorem test_exec_shift_right : nextHas (exec .shiftRight State.reset) fun s =>
    s.q = [.busWrite 0x4E ⟨0x1C, 0x18, 0xCC, 0xC8⟩, .delay 1] := by decide
theorem test_exec_shift_left : nextHas (exec .shiftLeft State.reset) fun s =>
    s.q = [.busWrite 0x4E ⟨0x1C, 0x18, 0x8C, 0x88⟩, .delay 1] := by decide
theorem test_exec_scroll_left : nextHas (exec .scrollLeft State.reset) fun s => s.q.length = 80 && s.mode = .busy := by decide

/-- The machine right after reset waits (R185). -/
theorem test_reset_waits : stopsWith (step State.reset) .noRequest = true := by decide
theorem test_fetch_word : nextHas (step (State.reset.withFetchWord 48 0x700000000000)) fun s =>
    s.op = some .shiftRight && s.port = [] && s.mode = .busy := by decide
/-- V-DEC-10, V-FLT-1: the fault is recorded and sticky. -/
theorem test_illegal_word : nextHas (step (presenting 0xA00000000000)) fun s =>
    s.fault = ⟨1, 0xA00000000000⟩ && s.events = [] && stopsWith (step (s.present 0x200000000000)) .faulted := by decide
theorem test_restart_clears : (raiseFault .illegalOp 0xA00000000000 State.reset).restart.fault = ⟨0, 0⟩ := by decide
theorem test_emit_head : nextHas (step (running .clear clearEvents)) fun s =>
    s.q = [.delay 1] && s.events = [.busWrite 0x4E ⟨0x0C, 0x08, 0x1C, 0x18⟩] && s.draws = 1 := by decide
theorem test_complete : nextHas (step (running .clear [])) fun s => s.mode = .idle := by decide

/-- A BUSY adapter at the refill of a string at `p`, with memory `m`. -/
def refilling (m : Memory) (p : HostAddr) : State := { running (.sendString p) [] with ptr := p, hostMem := m }

/-- V-TXT-8: the pointer wraps. -/
theorem test_refill_wraps : nextHas (step (refilling [(0xFFFFFFFF, 0x41)] 0xFFFFFFFF)) fun s =>
    s.q = [.busWrite 0x4E ⟨0x4D, 0x49, 0x1D, 0x19⟩, .delay 1] && s.ptr = 0 := by decide
/-- V-TXT-7: an empty string is no event. -/
theorem test_refill_ends : nextHas (step (refilling [(0x100, 0x00)] 0x100)) fun s =>
    s.mode = .idle && s.events = [] && s.ptr = 0x100 := by decide
/-- V-TXT-10: an address not admitted. -/
theorem test_refill_stuck : stopsWith (step (refilling [(0x300, 0x41)] 0x301)) (.unadmittedRead 0x301) = true := by decide

/-! The controller view: V-CV-2 to V-CV-8, V-CUR-7. -/

theorem test_view_data : let c := (viewAt 0).seeFrame (frame 0x41 true)
    c.valid = true ∧ c.ac = 0x01 ∧ c.ddram[0] = 0x41 ∧ c.pins = 0x19 ∧ c.phase = .hi := by decide
theorem test_view_wrap_row0 : let c := (viewAt 0x27).seeFrame (frame 0x5A true)
    c.ac = 0x40 ∧ c.ddram[39] = 0x5A := by decide
theorem test_view_wrap_row1 : let c := (viewAt 0x67).seeFrame (frame 0x5A true)
    c.ac = 0x00 ∧ c.ddram[79] = 0x5A := by decide
theorem test_view_outside_m : ((viewAt 0).seeFrame (frame 0x02 false)).valid = false := by decide
theorem test_view_outside_spans : ((viewAt 0).seeFrame (frame (cursorByte 0 0x28) false)).valid = false := by decide
theorem test_view_set_cursor : ((viewAt 0).seeFrame (frame (cursorByte 1 15) false)).ac = 0x4F := by decide
theorem test_view_shift : let c := (({ viewAt 0 with ddram := (Vector.replicate 80 0x20).set 0 0x41 }).seeFrame (frame 0x1C false))
    c.shift = 1 ∧ c.visible 0 1 = some 0x41 ∧ c.visible 0 0 = some 0x20 := by decide
theorem test_view_shift_left_wraps : ((viewAt 0).seeFrame (frame 0x18 false)).shift = 39 := by decide
theorem test_view_clear : let c := (viewAt 0x42).seeFrame (frame 0x01 false)
    c.ac = 0 ∧ c.ddram[10] = 0x20 ∧ c.ID = true := by decide
theorem test_view_failed_transmit : (emitBusWrite badDraw 0x4E (frame 0x41 true) []
    { running (.sendChar 0x41) [] with view := viewAt 0 }).view.valid = false := by decide
/-- R142: INIT's last delay gives the post-INIT state where every transmit succeeded, and not otherwise. -/
theorem test_view_after_init : let s := { running .init [] with initOk := true, expander := some 0x68 }
    let c := (emitDelay goodDraw 100 [] s).view
    c.valid = true ∧ c.pins = 0x68 ∧ c.ddram[79] = 0x20 ∧ c.D = true ∧ c.C = false ∧ c.N = true ∧
    (emitDelay goodDraw 100 [] { s with initOk := false }).view.valid = false := by decide
/-- R141: a field of an invalid view has no value. -/
theorem test_view_read_invalid : ControllerView.reset.read (·.ac) = none ∧ (viewAt 7).read (·.ac) = some 7 := by decide
/-- R50: line P2 is E. -/
theorem test_expander_line : (emitBusWrite goodDraw 0x4E (frame 0x41 true) [] State.reset).expanderLine 3 = some true ∧
    State.reset.expanderLine 2 = none := by decide

/-! Witnesses: states and operands that meet the hypotheses of the statements, for each clause, at the ends of its range. -/

/-- A view in its invariant, on pins that hold INIT's last byte, while the character 0x41 is queued. -/
def sending : State :=
  { running (.sendChar 0x41) (charEvents 0x41) with view := viewAt 0, expander := some 0x68 }

/-- EncodeOfDecodeIsTheWord, NoTwoRowsSelectOneWord. -/
theorem witness_legal_word : decode 0x9 = .illegal .reservedNonzero ∧ decode 0x900000000000 = .request .scrollLeft ∧
    scrollLeftRow ∈ encRows ∧ (0x900000000000 : ReqWord) &&& scrollLeftRow.mask = scrollLeftRow.pattern ∧
    frameRow ∈ encRows ∧ (0x01FF00000000 : ReqWord) &&& frameRow.mask = frameRow.pattern := by decide
/-- The encoding clauses of the ten requests' statements, with every operand bit set. -/
theorem witness_row_words : (0x01FF00000000 : ReqWord) &&& 0xFE00FFFFFFFF = 0x000000000000 ∧
    (0x30FFFFFFFFFF : ReqWord) &&& 0xFF0000000000 = 0x300000000000 ∧
    (0x40FF00000000 : ReqWord) &&& 0xFF00FFFFFFFF = 0x400000000000 ∧
    (0x5000FFFFFFFF : ReqWord) &&& 0xFFFF00000000 = 0x500000000000 ∧
    (0x6000FFFFFFFF : ReqWord) &&& 0xFFFF00000000 = 0x600000000000 ∧
    (0x100000000000 : ReqWord) &&& 0xFFFFFFFFFFFF = 0x100000000000 ∧
    (0x200000000000 : ReqWord) &&& 0xFFFFFFFFFFFF = 0x200000000000 ∧
    (0x700000000000 : ReqWord) &&& 0xFFFFFFFFFFFF = 0x700000000000 ∧
    (0x800000000000 : ReqWord) &&& 0xFFFFFFFFFFFF = 0x800000000000 ∧
    (0x900000000000 : ReqWord) &&& 0xFFFFFFFFFFFF = 0x900000000000 := by
  refine ⟨?_, ?_, ?_, ?_, ?_, ?_, ?_, ?_, ?_, ?_⟩ <;> rfl
/-- StepRunsTheDecodedRequest, RequestEmitsExactlyItsExpansion (the first and the last OP). -/
theorem witness_takes_request : (presenting 0x01FF00000000).takes 0x01FF00000000 [] ∧
    decode 0x01FF00000000 = .request (.frame true 0xFF) ∧ (presenting 0x900000000000).takes 0x900000000000 [] ∧
    decode 0x900000000000 = .request .scrollLeft ∧ decodeTableWord 48 0x900000000000 = some .scrollLeft ∧
    (∀ p, Instr.scrollLeft ≠ .sendString p) ∧ (∀ p, Instr.frame true 0xFF ≠ .sendString p) :=
  ⟨⟨rfl, rfl, rfl⟩, by decide, ⟨rfl, rfl, rfl⟩, by decide, by decide, by simp, by simp⟩
/-- StepRecordsAnIllegalWord: the ends of the illegal OP range, and the legal OP below it with a field that must be 0. -/
theorem witness_takes_illegal : (presenting 0xA00000000000).takes 0xA00000000000 [] ∧
    0xA ≤ (opField 0xA00000000000).toNat ∧ 0xA ≤ (opField 0xF00000000000).toNat ∧
    (opField 0x900000000001).toNat < 0xA ∧ reqWellFormed 0x900000000001 = false ∧
    (opField 0x020000000000).toNat < 0xA ∧ reqWellFormed 0x020000000000 = false :=
  ⟨⟨rfl, rfl, rfl⟩, by decide⟩
/-- FaultedAdapterHasNoStep, AdapterWithoutAStepStopsByName. -/
theorem witness_faulted : ({ State.reset with fault := ⟨1, 0xA00000000000⟩ } : State).fault.code ≠ 0 ∧
    ({ State.reset with fault := ⟨2, 0x900000000001⟩ } : State).fault.code ≠ 0 := by decide
/-- AdapterWithoutAStepStopsByName. -/
theorem witness_idle : State.reset.mode = .idle ∧ State.reset.fault.code = 0 ∧ State.reset.port = [] ∧ State.reset.endsWell :=
  ⟨rfl, rfl, rfl, rfl, rfl, rfl, rfl⟩
/-- StepEmitsABusWrite, StepEmitsADelay, BusyRunEmitsTheQueueWithItsDraws: a queue with a rest and one without. -/
theorem witness_emits : (running .clear clearEvents).fault.code = 0 ∧ (running .clear clearEvents).mode = .busy ∧
    (running .clear clearEvents).q = .busWrite 0x4E (frame 0x01 false) :: [.delay 1] ∧
    (running .clear [.delay 1]).q = .delay 1 :: [] ∧ (running .scrollLeft (scrollEvents.drop 1)).q = .delay 750 :: scrollEvents.drop 2 ∧
    (running (.sendChar 0x58) (charEvents 0x58)).q = .busWrite 0x4E (frame 0x58 true) :: [] := by decide
/-- StepCompletesARequest. -/
theorem witness_completes : (running .clear []).fault.code = 0 ∧ (running .clear []).mode = .busy ∧ (running .clear []).q = [] ∧
    ∀ p, (running .clear []).op ≠ some (.sendString p) := ⟨rfl, rfl, rfl, by simp [running]⟩
/-- StepRefillsAString: a nonzero byte, the terminator, and an address not admitted. -/
theorem witness_refills : (refilling [(0x100, 0x01)] 0x100).fault.code = 0 ∧ (refilling [(0x100, 0x01)] 0x100).mode = .busy ∧
    (refilling [(0x100, 0x01)] 0x100).q = [] ∧ (refilling [(0x100, 0x01)] 0x100).op = some (.sendString 0x100) ∧
    Memory.read (refilling [(0x100, 0x01)] 0x100).hostMem 0x100 = some 0x01 ∧
    Memory.read (refilling [(0xFFFFFFFF, 0xFF)] 0xFFFFFFFF).hostMem 0xFFFFFFFF = some 0xFF ∧
    Memory.read (refilling [(0x100, 0x00)] 0x100).hostMem 0x100 = some 0x00 ∧
    Memory.read (refilling [(0x100, 0x01)] 0x101).hostMem 0x101 = none := by decide
/-- BusyAdapterHoldsThePort, NothingWritesHostMemory, StepEmitsAtMostTheQueueHead, AcceptedRequestNeverFaults. -/
theorem witness_busy_step : (running .clear clearEvents).mode = .busy ∧ (∃ t, step (running .clear clearEvents) = .next t) ∧
    (∃ t, step (refilling [(0x100, 0x41)] 0x100) = .next t) ∧ (∃ t, exec .clear State.reset = .next t) :=
  ⟨rfl, ⟨_, rfl⟩, ⟨_, rfl⟩, ⟨_, rfl⟩⟩
/-- AcceptedRequestNeverFaults: its one stop. -/
theorem witness_busy_stop : (refilling [] 0x301).mode = .busy ∧ (refilling [] 0x301).fault.code = 0 ∧
    step (refilling [] 0x301) = .fault (.unadmittedRead 0x301) := ⟨rfl, rfl, rfl⟩
/-- OnlyResetClearsAFault. -/
theorem witness_step : ∃ t, step (presenting 0xA00000000000) = .next t := ⟨_, rfl⟩
/-- FramerIsInjective, FramePulsesEnableWithStableControls. -/
theorem witness_frame : frame 0xA5 true = frame 0xA5 true ∧ (0x5D : Byte) ∈ frameBytes (frame 0xA5 true) := by decide
/-- SendIntRequestQueuesDecimalDigits, SendIntNegativeFollowsTheParameter. -/
theorem witness_int : 0 < (1 : BitVec 32).toInt ∧ 0 < (0x7FFFFFFF : BitVec 32).toInt ∧ (0x80000000 : BitVec 32).toInt < 0 ∧
    (0xFFFFFFFF : BitVec 32).toInt < 0 := by decide
/-- SendIntQueuesAFrameForEachDigit: the ends of one digit, the least of two, the largest number. -/
theorem witness_int_digits : (10 ^ 0 ≤ (1 : BitVec 32).toInt ∧ (1 : BitVec 32).toInt < 10 ^ (0 + 1)) ∧
    (10 ^ 0 ≤ (9 : BitVec 32).toInt ∧ (9 : BitVec 32).toInt < 10 ^ (0 + 1)) ∧
    (10 ^ 1 ≤ (10 : BitVec 32).toInt ∧ (10 : BitVec 32).toInt < 10 ^ (1 + 1)) ∧
    (10 ^ 9 ≤ (0x7FFFFFFF : BitVec 32).toInt ∧ (0x7FFFFFFF : BitVec 32).toInt < 10 ^ (9 + 1)) := by decide
/-- StringEmitsEachCharacterThenCompletes, RequestTakesAtLeastItsDelays: one state for the empty string, and one for a string
that wraps past the last address. -/
theorem witness_string : (presentingWith [(0x100, 0x00)] 0x500000000100).takes 0x500000000100 [] ∧
    decode 0x500000000100 = .request (.sendString 0x100) ∧
    holdsString (presentingWith [(0x100, 0x00)] 0x500000000100).hostMem 0x100 [] = true ∧
    (presentingWith [(0, 0xFF), (1, 0x00), (0xFFFFFFFF, 0x01)] 0x5000FFFFFFFF).takes 0x5000FFFFFFFF [] ∧
    decode 0x5000FFFFFFFF = .request (.sendString 0xFFFFFFFF) ∧
    holdsString (presentingWith [(0, 0xFF), (1, 0x00), (0xFFFFFFFF, 0x01)] 0x5000FFFFFFFF).hostMem 0xFFFFFFFF [0x01, 0xFF] = true :=
  ⟨⟨rfl, rfl, rfl⟩, by decide, by decide, ⟨rfl, rfl, rfl⟩, by decide, by decide⟩
/-- UnterminatedStringSticksAtTheUnadmittedAddress: one state whose first address is not admitted, and one whose third is not. -/
theorem witness_unterminated : (presentingWith [] 0x500000000300).takes 0x500000000300 [] ∧
    decode 0x500000000300 = .request (.sendString 0x300) ∧
    holdsUnterminated (presentingWith [] 0x500000000300).hostMem 0x300 [] = true ∧
    (presentingWith [(0x300, 0x41), (0x301, 0x42)] 0x500000000300).takes 0x500000000300 [] ∧
    holdsUnterminated (presentingWith [(0x300, 0x41), (0x301, 0x42)] 0x500000000300).hostMem 0x300 [0x41, 0x42] = true :=
  ⟨⟨rfl, rfl, rfl⟩, by decide, by decide, ⟨rfl, rfl, rfl⟩, by decide⟩
/-- InitLeavesTheViewInItsPostState: every transmit succeeding, and only the last one not. -/
theorem witness_init_draws : (∃ t, exec .init State.reset = .next t ∧ t.q = initEvents) ∧
    (List.replicate 17 goodDraw).length = 17 ∧ transmitsOk initEvents (List.replicate 17 goodDraw) = true ∧
    (List.replicate 15 goodDraw ++ [badDraw, goodDraw]).length = 17 ∧
    transmitsOk initEvents (List.replicate 15 goodDraw ++ [badDraw, goodDraw]) = false := ⟨⟨_, rfl, rfl⟩, by decide⟩
/-- RequestTakesAtLeastItsDelays: a whole run of CLEAR and one of a string of one character. -/
theorem witness_run : (presenting 0x200000000000).takes 0x200000000000 [] ∧ decode 0x200000000000 = .request .clear ∧
    (∀ p, Instr.clear ≠ .sendString p) ∧
    (∃ t, (presenting 0x200000000000).run ((initialExpansion .clear).length + 2) = .next t) ∧
    (presentingWith [(0x100, 0x41), (0x101, 0x00)] 0x500000000100).takes 0x500000000100 [] ∧
    holdsString (presentingWith [(0x100, 0x41), (0x101, 0x00)] 0x500000000100).hostMem 0x100 [0x41] = true ∧
    ∃ t, (presentingWith [(0x100, 0x41), (0x101, 0x00)] 0x500000000100).run (3 * [(0x41 : Byte)].length + 2) = .next t := by
  refine ⟨⟨rfl, rfl, rfl⟩, by decide, by simp, ?_, ⟨rfl, rfl, rfl⟩, by decide, ?_⟩
  · simp only [show (initialExpansion .clear).length + 2 = 4 from rfl, run_succ, run_zero]
    exact ⟨_, rfl⟩
  · simp only [show 3 * [(0x41 : Byte)].length + 2 = 5 from rfl, run_succ, run_zero]
    exact ⟨_, rfl⟩
/-- FrameExecutesItsByteOnce, RequestExecutesItsBytesInOrder. -/
theorem witness_view_frame : (viewAt 0).betweenFrames ∧ sending.view.betweenFrames ∧ sending.op ≠ some .init ∧
    (∀ e ∈ sending.q, eventLegal e = true) ∧ [goodDraw].length = sending.q.length ∧ transmitsOk sending.q [goodDraw] = true :=
  ⟨⟨rfl, rfl, by decide⟩, ⟨rfl, rfl, by decide⟩, by decide⟩
/-- DataWriteStoresAndAdvances: the ends of both row spans. -/
theorem witness_data_write : (viewAt 0x00).valid = true ∧ (viewAt 0x00).ID = true ∧ (viewAt 0x00).S = false ∧
    ddramIndex (viewAt 0x00).ac = some 0 ∧ ddramIndex (viewAt 0x27).ac = some 39 ∧ ddramIndex (viewAt 0x40).ac = some 40 ∧
    ddramIndex (viewAt 0x67).ac = some 79 := by decide
/-- UnmodelledDataWriteInvalidates: the ends of both gaps, and display shift on write. -/
theorem witness_data_write_outside : ddramIndex (viewAt 0x28).ac = none ∧ ddramIndex (viewAt 0x3F).ac = none ∧
    ddramIndex (viewAt 0x68).ac = none ∧ ddramIndex (viewAt 0x7F).ac = none ∧
    ({ viewAt 0 with S := true } : ControllerView).S = true := by decide
/-- SetAddressCommandMovesOrInvalidates: the ends of the four ranges. -/
theorem witness_addresses : (∀ a ∈ [(0x00 : BitVec 7), 0x27, 0x40, 0x67], a.toNat ≤ 0x27 ∨ (0x40 ≤ a.toNat ∧ a.toNat ≤ 0x67)) ∧
    (∀ a ∈ [(0x28 : BitVec 7), 0x3F, 0x68, 0x7F], ¬ (a.toNat ≤ 0x27 ∨ (0x40 ≤ a.toNat ∧ a.toNat ≤ 0x67))) := by decide
/-- SetCursorReachesTheGridPosition, CommandOutsideTheSetInvalidates. -/
theorem witness_bytes : (0x00 : Byte).toNat < 16 ∧ (0x0F : Byte).toNat < 16 ∧
    ∀ v ∈ [(0x00 : Byte), 0x02, 0x1B, 0x7F], v.toNat < 0x80 ∧ v ∉ [(0x01 : Byte), 0x06, 0x0C, 0x18, 0x1C, 0x28] := by decide
/-- FailedTransmitInvalidatesTheView, DisplayShowsTheShiftedWindow, ShiftCommandsMoveOnlyTheWindow. -/
theorem witness_view_cases : badDraw.result ≠ .success ∧ ({ badDraw with result := .timeout } : Draw).result ≠ .success ∧
    ControllerView.reset.valid = false ∧ ({ viewAt 0 with D := false } : ControllerView).D = false ∧
    (viewAt 0).valid = true ∧ (viewAt 0).D = true := by decide
/-- StepKeepsTheSequencerInvariant, StepKeepsTheViewInvariant, HostActionsKeepTheInvariants: a state with a valid view. -/
theorem witness_invariants : sending.SeqInv ∧ sending.ViewInv ∧ ∃ t, step sending = .next t := by
  refine ⟨⟨by decide, by decide, by decide, by decide, by decide, fun _ => ⟨_, rfl, .inl (List.suffix_refl _)⟩, by decide⟩,
    ⟨by decide, by decide, by decide, by decide, by decide, by decide, by decide⟩, ⟨_, rfl⟩⟩
/-- AdapterDependsOnlyOnItsOwnPart: two states with different views, draws, expanders and times. -/
theorem witness_adapter : sending.adapter = ({ running (.sendChar 0x41) (charEvents 0x41) with draws := 5, elapsed := 9 } : State).adapter ∧
    sending ≠ { running (.sendChar 0x41) (charEvents 0x41) with draws := 5, elapsed := 9 } := by decide

end Sys2Proof.Tests
end

/-! PROOFS. Decoding by match and mask (rule R65) says the same as the field rules R62 to R64. -/

namespace Sys2Proof

/-- The mask of a field in rule R65: no bit where the request uses the field, every bit where it must be 0. -/
def fieldMask (used : Bool) (n : Nat) : BitVec n := if used then 0 else BitVec.allOnes n

/-- The row of rule R65 that the columns of rule R62 give an OP value. -/
def fieldRow (op : BitVec 4) : EncRow :=
  ⟨packAll op 0 0 0 0, packAll 0xF 0x7 (fieldMask (usesF op) 1) (fieldMask (usesA op) 8) (fieldMask (usesB op) 32)⟩

theorem and_fieldMask_eq_zero {n : Nat} (x : BitVec n) (used : Bool) :
    x &&& fieldMask used n = 0 ↔ used = true ∨ x = 0 := by
  cases used <;> simp [fieldMask]

theorem ofBool_eq_zero_iff (f : Bool) : BitVec.ofBool f = 0 ↔ f = false := by
  cases f <;> decide

/-- R62, R63 as propositions. -/
theorem unusedZero_iff (w : ReqWord) :
    unusedZero w = true ↔
      (usesF (opField w) = true ∨ fField w = false) ∧ (usesA (opField w) = true ∨ aField w = 0) ∧
        (usesB (opField w) = true ∨ bField w = 0) := by
  simp [unusedZero, and_assoc]

/-- Where OP selects a request, its row selects exactly the well-formed words. -/
theorem fieldRow_selects_iff_wellFormed {w : ReqWord} (hop : (opField w).toNat < 10) :
    (fieldRow (opField w)).selects w = true ↔ reqWellFormed w = true := by
  rw [fieldRow, selects_iff_fields rfl rfl]
  simp only [and_fieldMask_eq_zero, ofBool_eq_zero_iff, ← unusedZero_iff]
  simp [reqWellFormed, opLegal, rsvdZero, hop]

/-- R66: where OP selects a request, decoding is the check of that OP's row, and rule R65's ten rows are those of rule
R62's columns. -/
theorem decode_eq_checkRow {w : ReqWord} (hop : (opField w).toNat < 10) :
    ∃ i, decode w = checkRow (fieldRow (opField w)) i w := by
  obtain ⟨r, i, hrow, hdec⟩ : ∃ r i, fieldRow (BitVec.ofNat 4 (opField w).toNat) = r ∧ decode w = checkRow r i w := by
    unfold decode
    interval_cases (opField w).toNat <;> exact ⟨_, _, rfl, rfl⟩
  rw [BitVec.ofNat_toNat, BitVec.setWidth_eq] at hrow
  exact ⟨i, hrow ▸ hdec⟩

/-- R64: OP alone decides ILLEGAL_OP. -/
theorem decode_of_op_unassigned {w : ReqWord} (hop : 10 ≤ (opField w).toNat) : decode w = .illegal .illegalOp := by
  unfold decode
  split
  case h_11 => rfl
  all_goals omega

/-- R63, R64: what decoding answers where OP selects a request. -/
theorem decode_of_op_assigned {w : ReqWord} (hop : (opField w).toNat < 10) :
    (∃ i, reqWellFormed w = true ∧ decode w = .request i) ∨
      (reqWellFormed w = false ∧ decode w = .illegal .reservedNonzero) := by
  obtain ⟨i, hdec⟩ := decode_eq_checkRow hop
  have hsel := fieldRow_selects_iff_wellFormed hop
  cases hwf : reqWellFormed w with
  | true => exact .inl ⟨i, rfl, by rw [hdec, checkRow, if_pos (hsel.mpr hwf)]⟩
  | false => exact .inr ⟨rfl, by rw [hdec, checkRow, if_neg (by simp [hsel, hwf])]⟩

theorem reqWellFormed_of_op_unassigned {w : ReqWord} (hop : 10 ≤ (opField w).toNat) : reqWellFormed w = false := by
  simp [reqWellFormed, opLegal, hop]

/-- Settles O3: OP splits the words at 0xA, and below it the row of OP selects exactly the well-formed ones. -/
theorem decodeFollowsTheFieldRules : Obligations.DecodeFollowsTheFieldRules := by
  refine ⟨rfl, rfl, fun w => ?_⟩
  obtain hop | hop := Nat.lt_or_ge (opField w).toNat 10
  · obtain ⟨i, hwf, hdec⟩ | ⟨hwf, hdec⟩ := decode_of_op_assigned hop
    · simp [hdec, hwf, hop]
    · simp [hdec, hwf, hop]
  · simp [decode_of_op_unassigned hop, reqWellFormed_of_op_unassigned hop, hop]

end Sys2Proof

/-! PROOFS. The framer (rules R87 to R90) nibble by nibble, and the request that queues one frame. -/

namespace Sys2Proof.Machine

/-- R88 masks the low nibble after the shift, R87 before it. -/
theorem lowNibble_eq_shiftLeft_and (v : Byte) : lowNibble v = (v <<< 4) &&& 0xF0 := by
  rw [lowNibble, BitVec.shiftLeft_and_distrib]
  rfl

/-- Settles O20: the model's low nibble, masked before the shift, is the rule's, masked after it. -/
theorem framerComputesTheFourBytes : Obligations.FramerComputesTheFourBytes := by
  intro v
  rw [← lowNibble_eq_shiftLeft_and]
  exact ⟨rfl, rfl⟩

theorem extractLsb'_high_highNibble (v : Byte) : (highNibble v).extractLsb' 4 4 = v.extractLsb' 4 4 := by
  rw [highNibble, BitVec.extractLsb'_and]
  exact BitVec.and_allOnes

theorem extractLsb'_low_highNibble (v : Byte) : (highNibble v).extractLsb' 0 4 = 0 := by
  rw [highNibble, BitVec.extractLsb'_and]
  exact BitVec.and_zero

theorem extractLsb'_high_lowNibble (v : Byte) : (lowNibble v).extractLsb' 4 4 = v.extractLsb' 0 4 := by
  have hshift : (v <<< 4).extractLsb' 4 4 = v.extractLsb' 0 4 := by
    ext i hi
    simp [show 4 + i < 8 by omega, BitVec.getLsbD_eq_getElem (show i < 8 by omega)]
  rw [lowNibble_eq_shiftLeft_and, BitVec.extractLsb'_and, hshift]
  exact BitVec.and_allOnes

theorem extractLsb'_low_lowNibble (v : Byte) : (lowNibble v).extractLsb' 0 4 = 0 := by
  rw [lowNibble_eq_shiftLeft_and, BitVec.extractLsb'_and]
  exact BitVec.and_zero

/-- The top nibble of a frame byte: the control value has none. -/
theorem extractLsb'_high_or_control (x : Byte) (isData : Bool) :
    (x ||| enableHigh isData).extractLsb' 4 4 = x.extractLsb' 4 4 ∧
      (x ||| enableLow isData).extractLsb' 4 4 = x.extractLsb' 4 4 := by
  simp only [BitVec.extractLsb'_or]
  cases isData <;> exact ⟨BitVec.or_zero, BitVec.or_zero⟩

/-- The bottom nibble of a frame byte: the control value alone. -/
theorem extractLsb'_low_or_control {x : Byte} (hx : x.extractLsb' 0 4 = 0) (isData : Bool) :
    (x ||| enableHigh isData).extractLsb' 0 4 = (if isData then 0xD else 0xC) ∧
      (x ||| enableLow isData).extractLsb' 0 4 = (if isData then 0x9 else 0x8) := by
  simp only [BitVec.extractLsb'_or, hx]
  cases isData <;> exact ⟨BitVec.zero_or, BitVec.zero_or⟩

/-- Settles O21: each frame byte is a data nibble on top of a control nibble. -/
theorem frameHoldsNibblesAndControlNibbles : Obligations.FrameHoldsNibblesAndControlNibbles := by
  intro v isData
  obtain ⟨hhe, hhl⟩ := extractLsb'_high_or_control (highNibble v) isData
  obtain ⟨hle, hll⟩ := extractLsb'_high_or_control (lowNibble v) isData
  obtain ⟨che, chl⟩ := extractLsb'_low_or_control (extractLsb'_low_highNibble v) isData
  obtain ⟨cle, cll⟩ := extractLsb'_low_or_control (extractLsb'_low_lowNibble v) isData
  rw [extractLsb'_high_highNibble] at hhe hhl
  rw [extractLsb'_high_lowNibble] at hle hll
  exact ⟨hhe, hhl, hle, hll, che, cle, chl, cll⟩

/-- R65: a row fixes the OP of the words it matches. -/
theorem opField_of_masked {w : ReqWord} {r : EncRow} {op : BitVec 4} {mf : BitVec 1} {ma : Byte} {mb : BitVec 32}
    (hp : r.pattern = packAll op 0 0 0 0) (hm : r.mask = packAll 0xF 0x7 mf ma mb) (h : w &&& r.mask = r.pattern) :
    opField w = op :=
  ((selects_iff_fields hp hm w).mp (decide_eq_true h)).1

/-- R66: the row a word matches answers its request. -/
theorem checkRow_of_masked {w : ReqWord} {r : EncRow} (i : Instr) (h : w &&& r.mask = r.pattern) :
    checkRow r i w = .request i :=
  if_pos (decide_eq_true h)

theorem decode_of_frameRow {w : ReqWord} (h : w &&& frameRow.mask = frameRow.pattern) :
    decode w = .request (.frame (fField w) (aField w)) := by
  have hop : opField w = 0x0 := opField_of_masked (mf := 0) (ma := 0) (mb := 0xFFFFFFFF) rfl rfl h
  simp only [decode, hop]
  exact checkRow_of_masked _ h

/-- FRAME's acceptance: one frame and no delay in the queue, the rest of the state as before. -/
theorem exec_frame (isData : Bool) (v : Byte) (s : State) :
    exec (.frame isData v) s = .next
      { s with mode := .busy, op := some (.frame isData v), q := [.busWrite 0x4E (frame v isData)] } :=
  exec_eq (.frame isData v) s

/-- Settles O24: a word of FRAME's row has OP 0x0, and the acceptance of FRAME only loads the queue with its frame. -/
theorem frameRequestQueuesOneFrame : Obligations.FrameRequestQueuesOneFrame :=
  ⟨fun _ h => decode_of_frameRow h, fun v s => ⟨exec_frame false v s, exec_frame true v s⟩⟩

end Sys2Proof.Machine

/-! PROOFS. INIT: its word, its table's seventeen events, and its acceptance (rules R97, R98, R102). -/

namespace Sys2Proof.Machine

theorem decode_of_initRow {w : ReqWord} (h : w &&& initRow.mask = initRow.pattern) : decode w = .request .init := by
  have hop : opField w = 0x1 := opField_of_masked (mf := 1) (ma := 0xFF) (mb := 0xFFFFFFFF) rfl rfl h
  simp only [decode, hop]
  exact checkRow_of_masked _ h

/-- R97, R98: the table written out, a settle delay and then each command frame with its delay. -/
theorem initEvents_eq : initEvents =
    [.delay 50, .busWrite 0x4E (frame 0x30 false), .delay 5, .busWrite 0x4E (frame 0x30 false), .delay 1,
      .busWrite 0x4E (frame 0x30 false), .delay 10, .busWrite 0x4E (frame 0x20 false), .delay 1,
      .busWrite 0x4E (frame 0x28 false), .delay 1, .busWrite 0x4E (frame 0x0C false), .delay 1,
      .busWrite 0x4E (frame 0x01 false), .delay 1, .busWrite 0x4E (frame 0x06 false), .delay 100] := rfl

/-- INIT's acceptance (R97, R142): its events in the queue, the view invalid, the rest of the state as before. -/
theorem exec_init (s : State) :
    exec .init s = .next
      { s with mode := .busy, op := some .init, q := initEvents, view := s.view.invalidate, initOk := true } :=
  exec_eq .init s

/-- Settles O25: a word of INIT's row has OP 0x1, and the acceptance of INIT only loads the queue with its table's events
and starts the watch of the view, whatever the state (R102). -/
theorem initRequestQueuesTheHandshake : Obligations.InitRequestQueuesTheHandshake :=
  ⟨fun _ h => decode_of_initRow h,
    fun s => ⟨_, exec_init s, rfl, rfl, initEvents_eq, rfl, rfl, rfl, rfl, rfl, rfl, rfl, rfl⟩⟩

end Sys2Proof.Machine

/-! PROOFS. SET_CURSOR: its words, the command byte its row and column select, and its acceptance (rules R107, R108). -/

namespace Sys2Proof.Machine

theorem decode_of_setCursorRow {w : ReqWord} (h : w &&& setCursorRow.mask = setCursorRow.pattern) :
    decode w = .request (.setCursor (bField w) (aField w)) := by
  have hop : opField w = 0x3 := opField_of_masked (mf := 1) (ma := 0) (mb := 0) rfl rfl h
  simp only [decode, hop]
  exact checkRow_of_masked _ h

/-- R108: equality of the row with zero is the whole test, and the base is put over the column as it stands. -/
theorem cursorByte_eq (row : BitVec 32) (col : Byte) : cursorByte row col = col ||| (if row = 0 then 0x80 else 0xC0) := rfl

/-- R107: one command frame, then the standard delay. -/
theorem cursorEvents_eq (row : BitVec 32) (col : Byte) :
    cursorEvents row col = [.busWrite 0x4E (frame (cursorByte row col) false), .delay 1] := rfl

/-- SET_CURSOR's acceptance: its two events in the queue, the rest of the state as before. -/
theorem exec_setCursor (row : BitVec 32) (col : Byte) (s : State) :
    exec (.setCursor row col) s = .next
      { s with mode := .busy, op := some (.setCursor row col), q := cursorEvents row col } :=
  exec_eq (.setCursor row col) s

/-- Settles O27: a word of SET_CURSOR's row has OP 0x3, and the acceptance of SET_CURSOR only loads the queue with the
frame of its command byte and the delay, with no check of the row or the column (R108). -/
theorem setCursorRequestQueuesItsAddress : Obligations.SetCursorRequestQueuesItsAddress := by
  refine ⟨fun _ h => decode_of_setCursorRow h, fun row col s => ?_⟩
  rw [exec_setCursor, cursorEvents_eq, cursorByte_eq]

end Sys2Proof.Machine

/-! PROOFS. SEND_CHAR and SEND_INT: their acceptances, and the bytes of SEND_INT where a parameter of rule R8 decides them
(rules R113, R121, R123, R124). -/

namespace Sys2Proof.Machine

theorem decode_of_sendCharRow {w : ReqWord} (h : w &&& sendCharRow.mask = sendCharRow.pattern) :
    decode w = .request (.sendChar (aField w)) := by
  have hop : opField w = 0x4 := opField_of_masked (mf := 1) (ma := 0) (mb := 0xFFFFFFFF) rfl rfl h
  simp only [decode, hop]
  exact checkRow_of_masked _ h

/-- SEND_CHAR's acceptance: one data frame and no delay in the queue (R114), the rest of the state as before. -/
theorem exec_sendChar (c : Byte) (s : State) :
    exec (.sendChar c) s = .next
      { s with mode := .busy, op := some (.sendChar c), q := [.busWrite 0x4E (frame c true)] } :=
  exec_eq (.sendChar c) s

/-- Settles O28: a word of SEND_CHAR's row has OP 0x4, and the acceptance of SEND_CHAR only loads the queue with its frame. -/
theorem sendCharRequestQueuesOneFrame : Obligations.SendCharRequestQueuesOneFrame :=
  ⟨fun _ h => decode_of_sendCharRow h, exec_sendChar⟩

/-- R121, R125, R128: a data frame for each byte, then the standard delay. -/
theorem intEvents_eq (n : BitVec 32) :
    intEvents n = (intBytes n).map (fun b => .busWrite 0x4E (frame b true)) ++ [.delay 1] := rfl

/-- SEND_INT's acceptance: its events in the queue, the rest of the state as before. -/
theorem exec_sendInt (n : BitVec 32) (s : State) :
    exec (.sendInt n) s = .next { s with mode := .busy, op := some (.sendInt n), q := intEvents n } :=
  exec_eq (.sendInt n) s

/-- R123: 0 is not positive, so its bytes are the parameter's. -/
theorem intBytes_zero : intBytes 0 = if Config.sendIntZeroEmitsDigit then [0x30] else [] := rfl

/-- R124: a negative number is neither positive nor 0, so its bytes are the parameter's. -/
theorem intBytes_of_neg {n : BitVec 32} (hn : n.toInt < 0) : intBytes n = Config.sendIntNeg n := by
  have hzero : n ≠ 0 := by
    rintro rfl
    exact absurd hn (by decide)
  rw [intBytes, intBytesWith, if_neg (by omega), if_neg hzero]

/-- Settles O31: the acceptance of SEND_INT 0 queues a frame for '0' or none, as the parameter says, and then the delay. -/
theorem sendIntZeroFollowsTheParameter : Obligations.SendIntZeroFollowsTheParameter := by
  intro s
  rw [exec_sendInt, intEvents_eq, intBytes_zero]
  cases Config.sendIntZeroEmitsDigit <;> rfl

/-- Settles O32: a negative operand reaches the last branch of its bytes, and a frame is queued for each of them. -/
theorem sendIntNegativeFollowsTheParameter : Obligations.SendIntNegativeFollowsTheParameter := by
  intro n s hn
  rw [exec_sendInt, intEvents_eq, intBytes_of_neg hn]

end Sys2Proof.Machine

/-! PROOFS. CLEAR, SHIFT_RIGHT, SHIFT_LEFT and SCROLL_LEFT: their words, their constant expansions, and their acceptances
(rules R131, R133, R135, R137). -/

namespace Sys2Proof.Machine

/-- R65: a row that masks no bit out, as each of a request without operands, matches its pattern alone. -/
theorem eq_pattern_of_masked {w : ReqWord} {r : EncRow} (hm : r.mask = BitVec.allOnes 48) (h : w &&& r.mask = r.pattern) :
    w = r.pattern := by
  rw [← h, hm, BitVec.and_allOnes]

theorem decode_of_clearRow {w : ReqWord} (h : w &&& clearRow.mask = clearRow.pattern) : decode w = .request .clear := by
  rw [eq_pattern_of_masked rfl h]
  rfl

theorem decode_of_shiftRightRow {w : ReqWord} (h : w &&& shiftRightRow.mask = shiftRightRow.pattern) :
    decode w = .request .shiftRight := by
  rw [eq_pattern_of_masked rfl h]
  rfl

theorem decode_of_shiftLeftRow {w : ReqWord} (h : w &&& shiftLeftRow.mask = shiftLeftRow.pattern) :
    decode w = .request .shiftLeft := by
  rw [eq_pattern_of_masked rfl h]
  rfl

theorem decode_of_scrollLeftRow {w : ReqWord} (h : w &&& scrollLeftRow.mask = scrollLeftRow.pattern) :
    decode w = .request .scrollLeft := by
  rw [eq_pattern_of_masked rfl h]
  rfl

/-- A command's expansion is its frame, sent with RS = 0 to the expander, and then its delay. -/
theorem commandEvents_eq (v : Byte) (ms : Nat) : commandEvents v ms = [.busWrite 0x4E (frame v false), .delay ms] := rfl

/-- R137's loop is repetition: each pass puts the same two events in front. -/
theorem scrollLoop_eq_flatten_replicate (count : Nat) :
    scrollLoop count = (List.replicate count (commandEvents cmdShiftL18 scrollDelayMs)).flatten := by
  induction count with
  | zero => rfl
  | succ count ih => rw [scrollLoop, ih, List.replicate_succ, List.flatten_cons]

/-- R137: SCROLL_COUNT passes of the loop. -/
theorem scrollEvents_eq :
    scrollEvents = (List.replicate 40 [.busWrite 0x4E (frame 0x18 false), .delay 750]).flatten :=
  scrollLoop_eq_flatten_replicate 40

/-- CLEAR's acceptance: its command's events in the queue, the rest of the state as before. -/
theorem exec_clear (s : State) :
    exec .clear s = .next { s with mode := .busy, op := some .clear, q := commandEvents 0x01 1 } :=
  exec_eq .clear s

/-- SHIFT_RIGHT's acceptance: its command's events in the queue, the rest of the state as before. -/
theorem exec_shiftRight (s : State) :
    exec .shiftRight s = .next { s with mode := .busy, op := some .shiftRight, q := commandEvents 0x1C 1 } :=
  exec_eq .shiftRight s

/-- SHIFT_LEFT's acceptance: its command's events in the queue, the rest of the state as before. -/
theorem exec_shiftLeft (s : State) :
    exec .shiftLeft s = .next { s with mode := .busy, op := some .shiftLeft, q := commandEvents 0x18 1 } :=
  exec_eq .shiftLeft s

/-- SCROLL_LEFT's acceptance: its loop's events in the queue, the rest of the state as before. -/
theorem exec_scrollLeft (s : State) :
    exec .scrollLeft s = .next { s with mode := .busy, op := some .scrollLeft, q := scrollEvents } :=
  exec_eq .scrollLeft s

/-- Settles O26: CLEAR's row matches one word, and the acceptance of CLEAR only loads the queue with its command's frame and
delay. -/
theorem clearRequestQueuesItsCommand : Obligations.ClearRequestQueuesItsCommand := by
  refine ⟨fun _ h => decode_of_clearRow h, fun s => ?_⟩
  rw [exec_clear, commandEvents_eq]

/-- Settles O33: each shift's row matches one word, and the acceptance of a shift only loads the queue with its command's
frame and delay. -/
theorem shiftRequestsQueueTheirCommands : Obligations.ShiftRequestsQueueTheirCommands := by
  refine ⟨fun _ h => decode_of_shiftRightRow h, fun _ h => decode_of_shiftLeftRow h, fun s => ⟨?_, ?_⟩⟩
  · rw [exec_shiftRight, commandEvents_eq]
  · rw [exec_shiftLeft, commandEvents_eq]

/-- Settles O34: SCROLL_LEFT's row matches one word, and the acceptance of SCROLL_LEFT only loads the queue with its loop's
events, the shift-left frame and the 750 ms delay forty times over. -/
theorem scrollLeftRequestQueuesFortyShifts : Obligations.ScrollLeftRequestQueuesFortyShifts := by
  refine ⟨fun _ h => decode_of_scrollLeftRow h, fun s => ?_⟩
  rw [exec_scrollLeft, scrollEvents_eq]

end Sys2Proof.Machine

/-! PROOFS. The set-address command (rule R150): which addresses are in the row spans, and which branch of `Execute` (R146)
its byte takes. -/

namespace Sys2Proof.Machine

/-- R141: the addresses of the two row spans are exactly those with a place in DDRAM. -/
theorem ddramIndex_isSome_iff (a : BitVec 7) :
    (ddramIndex a).isSome = true ↔ a.toNat ≤ 0x27 ∨ (0x40 ≤ a.toNat ∧ a.toNat ≤ 0x67) := by
  unfold ddramIndex
  split
  case isTrue hlow => exact iff_of_true rfl (.inl (by omega))
  case isFalse hlow =>
    split
    case isTrue hhigh => exact iff_of_true rfl (.inr (by omega))
    case isFalse hhigh => exact iff_of_false Bool.false_ne_true (by omega)

theorem ControllerView.setAddr_of_isSome (c : ControllerView) {a : BitVec 7} (h : (ddramIndex a).isSome = true) :
    c.setAddr a = { c with ac := a } := if_pos h

theorem ControllerView.setAddr_of_not_isSome (c : ControllerView) {a : BitVec 7} (h : ¬ (ddramIndex a).isSome = true) :
    c.setAddr a = c.invalidate := if_neg h

/-- R146: a command byte with its top bit set is the set-address command, for the three commands tested before it have that
bit clear. -/
theorem ControllerView.execute_of_getLsbD_seven (c : ControllerView) {v : Byte} (h : v.getLsbD 7 = true) :
    c.execute v false = c.setAddr (v.extractLsb' 0 7) := by
  have hne : ∀ w : Byte, w.getLsbD 7 = false → v ≠ w := by
    rintro w hw rfl
    exact absurd (hw.symm.trans h) Bool.false_ne_true
  rw [execute, if_neg Bool.false_ne_true, if_neg (hne cmdClear01 rfl), if_neg (hne cmdShiftR1C rfl),
    if_neg (hne cmdShiftL18 rfl), if_pos h]

/-- The byte `0x80 | a` sets the address `a`. -/
theorem ControllerView.execute_one_append (c : ControllerView) (a : BitVec 7) :
    c.execute ((1 : BitVec 1) ++ a) false = c.setAddr a := by
  have htop : ((1 : BitVec 1) ++ a).getLsbD 7 = true := by rw [BitVec.getLsbD_append]; rfl
  rw [execute_of_getLsbD_seven c htop, BitVec.extractLsb'_append_eq_right]

/-- Settles O49: the command reaches `setAddr`, which tests whether the address is in a row span. -/
theorem setAddressCommandMovesOrInvalidates : Obligations.SetAddressCommandMovesOrInvalidates := by
  intro c a
  rw [c.execute_one_append, ← ddramIndex_isSome_iff]
  refine ⟨c.setAddr_of_isSome, fun h => ?_⟩
  rw [c.setAddr_of_not_isSome h, ControllerView.invalidate_valid]

end Sys2Proof.Machine

/-! PROOFS. Noninterference (rule R156): the outcome of a step, up to the adapter's part of the state, depends on that part
only. First an equation of `step` for each case of rule R21, then what each operation makes of two states that agree. -/

namespace Sys2Proof.Machine

/-- R161: a faulted adapter has no step. -/
theorem step_of_faulted {s : State} (hcode : s.fault.code ≠ 0) : step s = .fault .faulted :=
  if_pos hcode

/-- R21: an IDLE adapter with nothing presented waits. -/
theorem step_of_no_request {s : State} (hcode : s.fault.code = 0) (hmode : s.mode = .idle) (hport : s.port = []) :
    step s = .fault .noRequest := by
  simp [step, sequencerStep, hcode, hmode, hport]

/-- R21: an IDLE adapter takes the oldest word presented. -/
theorem step_of_takes {s : State} {w : ReqWord} {held : List ReqWord} (h : s.takes w held) :
    step s = takeWord exec w { s with port := held } := by
  obtain ⟨hmode, hcode, hport⟩ := h
  simp [step, sequencerStep, hcode, hmode, hport]

/-- R21: a BUSY adapter with an empty queue ends its request or refills a string. -/
theorem step_of_queue_empty {s : State} (hcode : s.fault.code = 0) (hmode : s.mode = .busy) (hq : s.q = []) :
    step s = finishOrRefill s := by
  simp [step, sequencerStep, hcode, hmode, hq]

/-- R19, R21: with an empty queue, a request that is no string is complete. -/
theorem finishOrRefill_of_not_string {s : State} (h : ∀ p, s.op ≠ some (.sendString p)) :
    finishOrRefill s = .next { s with mode := .idle } := by
  unfold finishOrRefill
  split
  case h_1 p hop => exact absurd hop (h p)
  case h_2 => rfl

theorem finishOrRefill_of_string {s : State} {p : HostAddr} (h : s.op = some (.sendString p)) :
    finishOrRefill s = refillString s := by
  simp [finishOrRefill, h]

/-- Two states agree when they do so in each field of the adapter's part. -/
theorem adapter_eq_iff {s t : State} :
    s.adapter = t.adapter ↔
      s.mode = t.mode ∧ s.op = t.op ∧ s.q = t.q ∧ s.ptr = t.ptr ∧ s.fault = t.fault ∧ s.port = t.port ∧
        s.hostMem = t.hostMem ∧ s.events = t.events :=
  AdapterPart.mk.injEq .. ▸ Iff.rfl

/-- Outcomes that agree are next states that agree, or the same stop. -/
theorem adapterAgrees_cases {o o' : Host.Outcome State Fault Refusal} (h : adapterAgrees o o') :
    (∃ s t, o = .next s ∧ o' = .next t ∧ s.adapter = t.adapter) ∨
      (∃ f, o = .fault f ∧ o' = .fault f) ∨ ∃ r, o = .refused r ∧ o' = .refused r := by
  unfold adapterAgrees at h
  split at h
  · exact .inl ⟨_, _, rfl, rfl, h⟩
  · exact .inr (.inl ⟨_, rfl, h ▸ rfl⟩)
  · exact .inr (.inr ⟨_, rfl, h ▸ rfl⟩)
  · exact h.elim

section
variable {s t : State}

/-- Whatever the two draws, an emission does the same to the adapter's part (R163). -/
theorem emitEvent_adapter_congr (d d' : Draw) (e : Event) (rest : List Event) (h : s.adapter = t.adapter) :
    (emitEvent d e rest s).adapter = (emitEvent d' e rest t).adapter := by
  simp_all [adapter_eq_iff, emitEvent_adapter]

theorem exec_agrees (i : Instr) (h : s.adapter = t.adapter) : adapterAgrees (exec i s) (exec i t) := by
  rw [exec_eq, exec_eq]
  simp_all [adapterAgrees, adapter_eq_iff]

theorem takeWord_agrees (w : ReqWord) (h : s.adapter = t.adapter) :
    adapterAgrees (takeWord exec w s) (takeWord exec w t) := by
  unfold takeWord
  cases decode w with
  | illegal why => simp_all [adapterAgrees, adapter_eq_iff]
  | request i => exact exec_agrees i h

/-- R43, R117: the read is of the adapter's own address in host memory. -/
theorem refillString_agrees (h : s.adapter = t.adapter) : adapterAgrees (refillString s) (refillString t) := by
  obtain ⟨-, -, -, hptr, -, -, hmem, -⟩ := adapter_eq_iff.mp h
  unfold refillString
  rw [← hptr, ← hmem]
  cases Memory.read s.hostMem s.ptr with
  | none => rfl
  | some b => by_cases hb : b = 0x00 <;> simp_all [adapterAgrees, adapter_eq_iff]

theorem finishOrRefill_agrees (h : s.adapter = t.adapter) : adapterAgrees (finishOrRefill s) (finishOrRefill t) := by
  obtain ⟨-, hop, -⟩ := adapter_eq_iff.mp h
  by_cases hstring : ∃ p, s.op = some (.sendString p)
  · obtain ⟨p, hp⟩ := hstring
    rw [finishOrRefill_of_string hp, finishOrRefill_of_string (hop ▸ hp)]
    exact refillString_agrees h
  · have hnot := not_exists.mp hstring
    rw [finishOrRefill_of_not_string hnot, finishOrRefill_of_not_string (hop ▸ hnot)]
    simp_all [adapterAgrees, adapter_eq_iff]

/-- Each case of rule R21 is chosen by the adapter's part, so two states that agree are in the same one. -/
theorem step_agrees (h : s.adapter = t.adapter) : adapterAgrees (step s) (step t) := by
  obtain ⟨hmode, hop, hq, hptr, hfault, hport, hmem, hev⟩ := adapter_eq_iff.mp h
  by_cases hcode : s.fault.code = 0
  case neg =>
    rw [step_of_faulted hcode, step_of_faulted (hfault ▸ hcode)]
    rfl
  case pos =>
    have hcode' : t.fault.code = 0 := hfault ▸ hcode
    cases hm : s.mode with
    | idle =>
      have hm' := hmode ▸ hm
      cases hp : s.port with
      | nil =>
        rw [step_of_no_request hcode hm hp, step_of_no_request hcode' hm' (hport ▸ hp)]
        rfl
      | cons w held =>
        rw [step_of_takes ⟨hm, hcode, hp⟩, step_of_takes ⟨hm', hcode', hport ▸ hp⟩]
        exact takeWord_agrees w (adapter_eq_iff.mpr ⟨hmode, hop, hq, hptr, hfault, rfl, hmem, hev⟩)
    | busy =>
      have hm' := hmode ▸ hm
      cases hqs : s.q with
      | nil =>
        rw [step_of_queue_empty hcode hm hqs, step_of_queue_empty hcode' hm' (hq ▸ hqs)]
        exact finishOrRefill_agrees h
      | cons e rest =>
        rw [step_emit hcode hm hqs, step_emit hcode' hm' (hq ▸ hqs)]
        exact emitEvent_adapter_congr _ _ e rest h

end

/-- Settles O59, by induction on the number of steps: steps from states that agree stop alike or lead to states that agree. -/
theorem adapterDependsOnlyOnItsOwnPart : Obligations.AdapterDependsOnlyOnItsOwnPart := by
  intro k
  induction k with
  | zero => exact fun _ _ h => h
  | succ k ih =>
    intro s t h
    rw [run_succ, run_succ]
    obtain ⟨s', t', hs, ht, hnext⟩ | ⟨f, hs, ht⟩ | ⟨r, hs, ht⟩ := adapterAgrees_cases (step_agrees h)
    · rw [hs, ht]
      exact ih s' t' hnext
    · rw [hs, ht]
      rfl
    · rw [hs, ht]
      rfl

end Sys2Proof.Machine

/-! PROOFS. Exceptions (rules R157 to R168): an illegal word taken only raises its fault, and a fault stops the adapter until
reset. -/

namespace Sys2Proof.Machine

/-- R159, R160, R167: taking a word that does not decode leaves the port without it and raises the fault, nothing else. -/
theorem step_of_takes_illegal {s : State} {w : ReqWord} {held : List ReqWord} {why : DecodeFault} (h : s.takes w held)
    (hdec : decode w = .illegal why) : step s = .next (raiseFault why w { s with port := held }) := by
  rw [step_of_takes h, takeWord, hdec]

/-- Settles O7: OP 0xA or more decodes to ILLEGAL_OP, any other word that is not well formed to RESERVED_NONZERO, and the
fault raised has that code. -/
theorem stepRecordsAnIllegalWord : Obligations.StepRecordsAnIllegalWord := by
  intro s w held h
  have ⟨hmode, _, _⟩ := h
  constructor
  · intro hop
    exact ⟨_, step_of_takes_illegal h (decode_of_op_unassigned hop), rfl, hmode, rfl, rfl, rfl, rfl, rfl, rfl, rfl⟩
  · intro hop hwf
    obtain ⟨i, hlegal, -⟩ | ⟨-, hdec⟩ := decode_of_op_assigned hop
    · exact absurd (hwf.symm.trans hlegal) Bool.false_ne_true
    · exact ⟨_, step_of_takes_illegal h hdec, rfl, hmode, rfl, rfl, rfl, rfl, rfl, rfl, rfl⟩

theorem step_ne_next_of_faulted {s : State} (hcode : s.fault.code ≠ 0) (t : State) : step s ≠ .next t := by
  simp [step_of_faulted hcode]

/-- Settles O8: presenting a word leaves the fault register as it is, so the state with the word is faulted too; a good end
has code 0, and reset writes it. -/
theorem faultedAdapterHasNoStep : Obligations.FaultedAdapterHasNoStep := by
  intro s hcode
  have hpresent (w : ReqWord) : (s.present w).fault.code ≠ 0 := by rwa [State.present_fault]
  refine ⟨step_ne_next_of_faulted hcode, fun w => step_ne_next_of_faulted (hpresent w), ?_, by rw [State.restart_fault]⟩
  rintro ⟨-, -, hzero, -⟩
  exact hcode hzero

end Sys2Proof.Machine

/-! PROOFS. What each request's expansion has of frames and delays (rule R201): the counts of a concatenation, of a repeated
command and of a string's characters, and the total as the sum of the list. -/

namespace Sys2Proof.Machine

@[simp] theorem frameCount_append (es fs : List Event) : frameCount (es ++ fs) = frameCount es + frameCount fs := by
  induction es with
  | nil => rw [List.nil_append, frameCount, Nat.zero_add]
  | cons e es ih =>
    cases e with
    | busWrite a f => rw [List.cons_append, frameCount, frameCount, ih, Nat.add_right_comm]
    | delay ms => rw [List.cons_append, frameCount, frameCount, ih]

@[simp] theorem delayList_append (es fs : List Event) : delayList (es ++ fs) = delayList es ++ delayList fs := by
  induction es with
  | nil => rfl
  | cons e es ih => cases e <;> simp [delayList, ih]

/-- R201's two readings of the delays agree: a frame adds 0 to the total and nothing to the list. -/
theorem delayTotal_eq_sum_delayList (es : List Event) : delayTotal es = (delayList es).sum := by
  induction es with
  | nil => rfl
  | cons e es ih => cases e <;> simp [delayTotal, delayList, delayOf, ih]

@[simp] theorem frameCount_map_send (bytes : List Byte) (isData : Bool) :
    frameCount (bytes.map fun b => send b isData) = bytes.length := by
  induction bytes with
  | nil => rfl
  | cons b bytes ih => rw [List.map_cons, send, frameCount, ih, List.length_cons]

@[simp] theorem delayList_map_send (bytes : List Byte) (isData : Bool) :
    delayList (bytes.map fun b => send b isData) = [] := by
  induction bytes with
  | nil => rfl
  | cons b bytes ih => rw [List.map_cons, send, delayList, ih]

@[simp] theorem frameCount_commandEvents (v : Byte) (ms : Nat) : frameCount (commandEvents v ms) = 1 := rfl
@[simp] theorem delayList_commandEvents (v : Byte) (ms : Nat) : delayList (commandEvents v ms) = [ms] := rfl
@[simp] theorem frameCount_stringCharEvents (c : Byte) : frameCount (stringCharEvents c) = 1 := rfl
@[simp] theorem delayList_stringCharEvents (c : Byte) : delayList (stringCharEvents c) = [1] := rfl

theorem frameCount_intEvents (n : BitVec 32) : frameCount (intEvents n) = (intBytes n).length := by
  rw [intEvents, intEventsOf, frameCount_append, frameCount_map_send]
  rfl

/-- R125, R128: the digit frames are back to back, and the one delay is after the last. -/
theorem delayList_intEvents (n : BitVec 32) : delayList (intEvents n) = [1] := by
  rw [intEvents, intEventsOf, delayList_append, delayList_map_send]
  rfl

theorem stringEvents_cons (c : Byte) (cs : List Byte) :
    stringEvents (c :: cs) = stringCharEvents c ++ stringEvents cs := List.flatMap_cons

theorem frameCount_stringEvents (chars : List Byte) : frameCount (stringEvents chars) = chars.length := by
  induction chars with
  | nil => rfl
  | cons c cs ih =>
    rw [stringEvents_cons, frameCount_append, ih, frameCount_stringCharEvents, List.length_cons, Nat.add_comm]

theorem delayList_stringEvents (chars : List Byte) : delayList (stringEvents chars) = List.replicate chars.length 1 := by
  induction chars with
  | nil => rfl
  | cons c cs ih =>
    rw [stringEvents_cons, delayList_append, ih, delayList_stringCharEvents, List.length_cons, List.replicate_succ,
      List.singleton_append]

theorem frameCount_scrollLoop (count : Nat) : frameCount (scrollLoop count) = count := by
  induction count with
  | zero => rfl
  | succ count ih => rw [scrollLoop, frameCount_append, ih, frameCount_commandEvents, Nat.add_comm]

theorem delayList_scrollLoop (count : Nat) : delayList (scrollLoop count) = List.replicate count scrollDelayMs := by
  induction count with
  | zero => rfl
  | succ count ih =>
    rw [scrollLoop, delayList_append, ih, delayList_commandEvents, List.replicate_succ, List.singleton_append]

/-- A row of R201's table: the total follows from the list. -/
theorem statedDelays_of_delayList {es : List Event} {frames total : Nat} {delays : List Nat} (hframes : frameCount es = frames)
    (hdelays : delayList es = delays) (htotal : delays.sum = total) :
    frameCount es = frames ∧ delayList es = delays ∧ delayTotal es = total :=
  ⟨hframes, hdelays, by rw [delayTotal_eq_sum_delayList, hdelays, htotal]⟩

/-- Settles O36, a row of R201's table at a time: the rows of a fixed number of events compute, and those of SEND_STRING,
SEND_INT and SCROLL_LEFT are by induction on the characters, the bytes and the count. -/
theorem expansionsHaveTheStatedDelays : Obligations.ExpansionsHaveTheStatedDelays := by
  refine ⟨?frame, ?init, ?clear, ?setCursor, ?sendChar, ?sendString, ?sendInt, ?shiftRight, ?shiftLeft, ?scrollLeft⟩
  case frame => exact fun isData v => statedDelays_of_delayList rfl rfl rfl
  case init => exact statedDelays_of_delayList rfl rfl rfl
  case clear => exact statedDelays_of_delayList (frameCount_commandEvents _ _) (delayList_commandEvents _ _) rfl
  case setCursor => exact fun row col => statedDelays_of_delayList rfl rfl rfl
  case sendChar => exact fun c => statedDelays_of_delayList rfl rfl rfl
  case sendString =>
    exact fun chars => statedDelays_of_delayList (frameCount_stringEvents chars) (delayList_stringEvents chars) (by simp)
  case sendInt => exact fun n => statedDelays_of_delayList (frameCount_intEvents n) (delayList_intEvents n) rfl
  case shiftRight => exact statedDelays_of_delayList (frameCount_commandEvents _ _) (delayList_commandEvents _ _) rfl
  case shiftLeft => exact statedDelays_of_delayList (frameCount_commandEvents _ _) (delayList_commandEvents _ _) rfl
  case scrollLeft => exact statedDelays_of_delayList (frameCount_scrollLoop 40) (delayList_scrollLoop 40) rfl

end Sys2Proof.Machine

/-! PROOFS. Reset (rules R7 and R181). -/

namespace Sys2Proof.Machine

/-- Settles O18: `State.reset` and the constants are written out with the values of R181 and R7, so each clause computes. -/
theorem resetStateIsTheSpecs : Obligations.ResetStateIsTheSpecs :=
  ⟨rfl, rfl, rfl, rfl, rfl, rfl, rfl, rfl, rfl, rfl, rfl, rfl, rfl, rfl, rfl, rfl, rfl, rfl, rfl, rfl, rfl, rfl⟩

end Sys2Proof.Machine

/-! PROOFS. The encoder and the decoder undo each other (rules R60 to R66): a request's word matches its own row of rule R65,
and a legal word is its fields, those its request does not use being 0. -/

namespace Sys2Proof.Machine

theorem decode_of_sendStringRow {w : ReqWord} (h : w &&& sendStringRow.mask = sendStringRow.pattern) :
    decode w = .request (.sendString (bField w)) := by
  have hop : opField w = 0x5 := opField_of_masked (mf := 1) (ma := 0xFF) (mb := 0) rfl rfl h
  simp only [decode, hop]
  exact checkRow_of_masked _ h

theorem decode_of_sendIntRow {w : ReqWord} (h : w &&& sendIntRow.mask = sendIntRow.pattern) :
    decode w = .request (.sendInt (bField w)) := by
  have hop : opField w = 0x6 := opField_of_masked (mf := 1) (ma := 0xFF) (mb := 0) rfl rfl h
  simp only [decode, hop]
  exact checkRow_of_masked _ h

/-- Settles O1: a request's word matches the request's row, and its operands' fields hold the operands. -/
theorem decodeOfEncodeIsTheRequest : Obligations.DecodeOfEncodeIsTheRequest := by
  intro i
  cases i with
  | frame isData v => rw [decode_of_frameRow (Laws.RowSelected.frame isData v), encode, fField_packFields, aField_packFields]
  | init => exact decode_of_initRow Laws.RowSelected.init
  | clear => exact decode_of_clearRow Laws.RowSelected.clear
  | setCursor row col =>
    rw [decode_of_setCursorRow (Laws.RowSelected.setCursor row col), encode, bField_packFields, aField_packFields]
  | sendChar c => rw [decode_of_sendCharRow (Laws.RowSelected.sendChar c), encode, aField_packFields]
  | sendString p => rw [decode_of_sendStringRow (Laws.RowSelected.sendString p), encode, bField_packFields]
  | sendInt n => rw [decode_of_sendIntRow (Laws.RowSelected.sendInt n), encode, bField_packFields]
  | shiftRight => exact decode_of_shiftRightRow Laws.RowSelected.shiftRight
  | shiftLeft => exact decode_of_shiftLeftRow Laws.RowSelected.shiftLeft
  | scrollLeft => exact decode_of_scrollLeftRow Laws.RowSelected.scrollLeft

/-- Settles O5: the legal words are those of their requests (O1), and the others break rule R64 and rule R63. -/
theorem specRequestWordsDecode : Obligations.SpecRequestWordsDecode :=
  ⟨decodeOfEncodeIsTheRequest .init, decodeOfEncodeIsTheRequest (.frame false 0x30),
    decodeOfEncodeIsTheRequest (.frame true 0x41), decodeOfEncodeIsTheRequest (.setCursor 1 5),
    decodeOfEncodeIsTheRequest (.sendChar 0x58), decodeOfEncodeIsTheRequest (.sendString 0x20000000),
    decodeOfEncodeIsTheRequest (.sendInt 123), decodeOfEncodeIsTheRequest (.sendInt 0xFFFFFFFF),
    decodeOfEncodeIsTheRequest .scrollLeft, decode_of_op_unassigned (by decide), by decide⟩

/-- R62, R63: a legal word is the fields its request uses, with 0 in every other. -/
theorem packFields_usedFields {w : ReqWord} (h : reqWellFormed w = true) :
    packFields (opField w) (usesF (opField w) && fField w) (if usesA (opField w) then aField w else 0)
      (if usesB (opField w) then bField w else 0) = w := by
  simp only [reqWellFormed, Bool.and_eq_true, unusedZero_iff] at h
  obtain ⟨⟨-, hrsvd⟩, hf, ha, hb⟩ := h
  have hf' : (usesF (opField w) && fField w) = fField w := by rcases hf with h | h <;> simp [h]
  have ha' : (if usesA (opField w) then aField w else 0) = aField w := by rcases ha with h | h <;> simp [h]
  have hb' : (if usesB (opField w) then bField w else 0) = bField w := by rcases hb with h | h <;> simp [h]
  rw [hf', ha', hb', packFields_fields w (of_decide_eq_true hrsvd)]

theorem opField_eq_ofNat {w : ReqWord} {k : Nat} (h : (opField w).toNat = k) : opField w = BitVec.ofNat 4 k := by
  rw [← h, BitVec.ofNat_toNat, BitVec.setWidth_eq]

theorem eq_of_checkRow {r : EncRow} {i j : Instr} {w : ReqWord} (h : checkRow r i w = .request j) : i = j := by
  unfold checkRow at h
  split at h
  · exact Decoded.request.inj h
  · cases h

/-- Settles O2: OP decides which request a legal word is and which fields its encoding takes over from the word. -/
theorem encodeOfDecodeIsTheWord : Obligations.EncodeOfDecodeIsTheWord := by
  intro w i h
  have hwf : reqWellFormed w = true := (decodeFollowsTheFieldRules.2.2 w).1.mp ⟨i, h⟩
  conv_rhs => rw [← packFields_usedFields hwf]
  unfold decode at h
  split at h
  case h_11 => cases h
  all_goals
    next hop =>
    obtain rfl := eq_of_checkRow h
    rw [opField_eq_ofNat hop]
    rfl

/-- The ten rows are those rule R62 gives their OP values. -/
theorem fieldRow_opField_pattern : ∀ r ∈ encRows, fieldRow (opField r.pattern) = r := by decide

/-- Settles O4: a word matches a row only if its OP is the row's, and OP determines the row. -/
theorem noTwoRowsSelectOneWord : Obligations.NoTwoRowsSelectOneWord := by
  have hrow (w : ReqWord) (r : EncRow) (hr : r ∈ encRows) (h : w &&& r.mask = r.pattern) : fieldRow (opField w) = r := by
    have hop : opField w = opField r.pattern := by
      rw [← fieldRow_opField_pattern r hr] at h
      exact opField_of_masked rfl rfl h
    rw [hop, fieldRow_opField_pattern r hr]
  intro w r r' hr hr' h h'
  rw [← hrow w r hr h, ← hrow w r' hr' h']

end Sys2Proof.Machine

/-! PROOFS. The framer's control nibbles (rules R70, R91 to R93): the top half of a frame byte has no part in its control
lines, and the framer's inputs are recovered from the frame. -/

namespace Sys2Proof.Machine

/-- Below the mask 0xF0, a frame byte is its control nibble. -/
theorem and_0x0F_of_masked (x y : Byte) : ((x &&& 0xF0) ||| y) &&& 0x0F = y &&& 0x0F := by
  rw [BitVec.and_or_distrib_right, BitVec.and_assoc, show (0xF0 : Byte) &&& 0x0F = 0#8 from rfl, BitVec.and_zero,
    BitVec.zero_or]

theorem getLsbD_of_and_0x0F_eq {b c : Byte} (h : b &&& 0x0F = c &&& 0x0F) {i : Nat} (hi : i < 4) :
    b.getLsbD i = c.getLsbD i := by
  have hbit : (b &&& 0x0F).getLsbD i = (c &&& 0x0F).getLsbD i := by rw [h]
  have hmask : (0x0F : Byte).getLsbD i = true := by interval_cases i <;> rfl
  rwa [BitVec.getLsbD_and, BitVec.getLsbD_and, hmask, Bool.and_true, Bool.and_true] at hbit

/-- R69, R70: each byte of a frame has the control nibble of its place. -/
theorem frame_control (v : Byte) (isData : Bool) :
    (frame v isData).b0 &&& 0x0F = enableHigh isData &&& 0x0F ∧ (frame v isData).b1 &&& 0x0F = enableLow isData &&& 0x0F ∧
    (frame v isData).b2 &&& 0x0F = enableHigh isData &&& 0x0F ∧ (frame v isData).b3 &&& 0x0F = enableLow isData &&& 0x0F := by
  simp only [frame, lowNibble_eq_shiftLeft_and, highNibble, and_0x0F_of_masked, and_self]

/-- A byte of a frame has the control nibble of E high or of E low. -/
theorem control_of_mem_frameBytes {v b : Byte} {isData : Bool} (h : b ∈ frameBytes (frame v isData)) :
    b &&& 0x0F = enableHigh isData &&& 0x0F ∨ b &&& 0x0F = enableLow isData &&& 0x0F := by
  obtain ⟨h0, h1, h2, h3⟩ := frame_control v isData
  simp only [frameBytes, List.mem_cons, List.not_mem_nil, or_false] at h
  rcases h with rfl | rfl | rfl | rfl
  · exact .inl h0
  · exact .inr h1
  · exact .inl h2
  · exact .inr h3

/-- Settles O22: E is in the control nibble of a byte's place, and RS, RW and X are the same in both nibbles of a mode. -/
theorem framePulsesEnableWithStableControls : Obligations.FramePulsesEnableWithStableControls := by
  intro v isData
  obtain ⟨h0, h1, h2, h3, -⟩ := frame_pins v isData
  refine ⟨h0, h1, h2, h3, fun b hb => ?_⟩
  rcases control_of_mem_frameBytes hb with h | h <;>
    rw [getLsbD_of_and_0x0F_eq h (by decide : 0 < 4), getLsbD_of_and_0x0F_eq h (by decide : 1 < 4),
      getLsbD_of_and_0x0F_eq h (by decide : 3 < 4)] <;>
    cases isData <;> decide

/-- R70: the class of a byte is that of its low nibble. -/
theorem controlClass_congr {b c : Byte} (h : b &&& 0x0F = c &&& 0x0F) : controlClass b = controlClass c := by
  simp only [controlClass, h]

/-- Settles O23: the byte and the mode are read off the frame, so equal frames have equal ones. -/
theorem framerIsInjective : Obligations.FramerIsInjective := by
  constructor
  · intro v v' isData isData' h
    obtain ⟨hv, hdata⟩ := frame_recovered v isData
    obtain ⟨hv', hdata'⟩ := frame_recovered v' isData'
    rw [h] at hv hdata
    exact ⟨hv.symm.trans hv', hdata.symm.trans hdata'⟩
  · intro v isData
    obtain ⟨hv, hdata⟩ := frame_recovered v isData
    refine ⟨hv, hdata, fun b hb => ?_⟩
    rcases control_of_mem_frameBytes hb with h | h <;> rw [controlClass_congr h] <;> cases isData <;> rfl

end Sys2Proof.Machine

/-! PROOFS. SEND_STRING's acceptance and SEND_INT's digits (rules R19, R121, R122, R126, R127): the loop of R121 gives the
decimal digits of the library's `Nat.digits`, most significant first. -/

namespace Sys2Proof.Machine

/-- Settles O29: a word of SEND_STRING's row has OP 0x5, and the acceptance loads an empty queue and the pointer. -/
theorem sendStringRequestLoadsThePointer : Obligations.SendStringRequestLoadsThePointer :=
  ⟨fun _ h => decode_of_sendStringRow h, fun p s => exec_eq (.sendString p) s⟩

/-- R121: with room for the digits of `m`, the loop puts them in front of `acc`. -/
theorem digitLoop_eq_digits {fuel m : Nat} (h : m < 10 ^ fuel) (acc : List Nat) :
    digitLoop fuel m acc = (Nat.digits 10 m).reverse ++ acc := by
  induction fuel generalizing m acc with
  | zero =>
    obtain rfl : m = 0 := by simpa using h
    simp [digitLoop]
  | succ fuel ih =>
    rw [digitLoop]
    by_cases hm : m = 0
    · simp [hm]
    · have hdiv : m / 10 < 10 ^ fuel := by
        rw [pow_succ] at h
        exact Nat.div_lt_of_lt_mul (Nat.mul_comm _ _ ▸ h)
      have hdigits : Nat.digits 10 m = m % 10 :: Nat.digits 10 (m / 10) :=
        Nat.digits_def' (by decide) (Nat.pos_of_ne_zero hm)
      rw [if_neg hm, ih hdiv, hdigits, List.reverse_cons, List.append_assoc, List.singleton_append]

theorem digits_eq_reverse {m : Nat} (h : m < 10 ^ digitBuf) : digits m = (Nat.digits 10 m).reverse := by
  rw [digits, digitLoop_eq_digits h, List.append_nil]

/-- R122: no leading zero. -/
theorem head?_reverse_digits_ne_zero {m : Nat} (hm : m ≠ 0) : (Nat.digits 10 m).reverse.head? ≠ some 0 := by
  have hne : Nat.digits 10 m ≠ [] := Nat.digits_ne_nil_iff_ne_zero.mpr hm
  rw [List.head?_reverse, List.getLast?_eq_getLast_of_ne_nil hne]
  exact fun h => Nat.getLast_digit_ne_zero 10 hm (Option.some.inj h)

/-- R121: the digits' value, read from the most significant one. -/
theorem foldl_reverse_digits (m : Nat) : (Nat.digits 10 m).reverse.foldl (fun acc d => 10 * acc + d) 0 = m := by
  rw [List.foldl_reverse]
  conv_rhs => rw [← Nat.ofDigits_digits 10 m, Nat.ofDigits_eq_foldr]
  simp only [Nat.cast_id, Nat.add_comm]

/-- R121: the operand of a positive SEND_INT, as the number its digits are of. -/
theorem toNat_of_toInt_pos {n : BitVec 32} (hn : 0 < n.toInt) :
    (n.toNat : Int) = n.toInt ∧ n.toNat ≠ 0 ∧ n.toNat < 10 ^ digitBuf := by
  have hlt := n.isLt
  rw [BitVec.toInt_eq_toNat_cond] at hn ⊢
  rw [digitBuf]
  split at hn <;> split <;> omega

theorem intBytes_of_pos {n : BitVec 32} (hn : 0 < n.toInt) :
    intBytes n = (Nat.digits 10 n.toNat).reverse.map digitByte := by
  rw [intBytes, intBytesWith, if_pos hn, digits_eq_reverse (toNat_of_toInt_pos hn).2.2]

/-- R127: a positive operand has at most the ten digits the digit store holds. -/
theorem length_digits_le {m : Nat} (h : m < 10 ^ digitBuf) : (Nat.digits 10 m).length ≤ 10 :=
  (Nat.digits_length_le_iff (by decide) m).mpr h

/-- Settles O30: the digits are those of `Nat.digits` in reverse, whose last one is not zero. -/
theorem sendIntRequestQueuesDecimalDigits : Obligations.SendIntRequestQueuesDecimalDigits := by
  refine ⟨fun _ h => decode_of_sendIntRow h, fun n s hn => ?_⟩
  obtain ⟨hcast, hne, hlt⟩ := toNat_of_toInt_pos hn
  refine ⟨(Nat.digits 10 n.toNat).reverse, ?_, head?_reverse_digits_ne_zero hne, ?_, ?_, ?_, ?_⟩
  · simpa [Nat.digits_ne_nil_iff_ne_zero] using hne
  · exact fun d hd => Nat.digits_lt_base (by decide) (List.mem_reverse.mp hd)
  · rw [foldl_reverse_digits, hcast]
  · rw [List.length_reverse]
    exact length_digits_le hlt
  · rw [exec_sendInt, intEvents_eq, intBytes_of_pos hn, List.map_map]
    rfl

/-- Settles O35: a number from 10^k up to 10^(k+1) has k + 1 digits, each a frame of the expansion. -/
theorem sendIntQueuesAFrameForEachDigit : Obligations.SendIntQueuesAFrameForEachDigit := by
  intro n k hn hlow hhigh
  obtain ⟨hcast, hne, hlt⟩ := toNat_of_toInt_pos hn
  rw [← hcast] at hlow hhigh
  have hlog : Nat.log 10 n.toNat = k := Nat.log_eq_of_pow_le_of_lt_pow (by exact_mod_cast hlow) (by exact_mod_cast hhigh)
  have hdigits : (Nat.digits 10 n.toNat).length = k + 1 := by rw [Nat.length_digits 10 _ (by decide) hne, hlog]
  have hbytes : (intBytes n).length = k + 1 := by rw [intBytes_of_pos hn, List.length_map, List.length_reverse, hdigits]
  refine ⟨by rw [frameCount_intEvents, hbytes], delayList_intEvents n, ?_, hdigits ▸ length_digits_le hlt⟩
  rw [intEvents_eq, List.length_append, List.length_map, hbytes]
  rfl

end Sys2Proof.Machine

/-! PROOFS. The cases of the step relation (rule R21) one by one, and what no step does: write host memory, take a word while
BUSY, fault part-way, clear a fault. -/

namespace Sys2Proof.Machine

/-- R21: a request's word taken from the port is run. -/
theorem step_of_takes_request {s : State} {w : ReqWord} {held : List ReqWord} {i : Instr} (h : s.takes w held)
    (hdec : decode w = .request i) : step s = exec i { s with port := held } := by
  rw [step_of_takes h, takeWord, hdec]

theorem decode_of_decodeTableWord {n w : Nat} {i : Instr} (h : decodeTableWord n w = some i) :
    decode (tableWord n w) = .request i := by
  unfold decodeTableWord at h
  split at h
  case h_1 j hj => rw [hj, Option.some.inj h]
  case h_2 => cases h

/-- Settles O6: the word is the oldest one presented, and `withFetchWord` puts it there with the adapter ready to take it. -/
theorem stepRunsTheDecodedRequest : Obligations.StepRunsTheDecodedRequest := by
  refine ⟨fun _ _ _ _ => step_of_takes_request, fun s w i h => ?_⟩
  have htakes : (s.withFetchWord 48 w).takes (tableWord 48 w) s.port := ⟨rfl, rfl, rfl⟩
  exact step_of_takes_request htakes (decode_of_decodeTableWord h)

/-- Settles O9: rule R21's first test and its last IDLE branch; a good end has the fields of the latter. -/
theorem adapterWithoutAStepStopsByName : Obligations.AdapterWithoutAStepStopsByName := by
  refine ⟨fun _ hmode hcode hport => step_of_no_request hcode hmode hport, fun s h => ?_, fun _ => step_of_faulted⟩
  obtain ⟨hmode, -, hcode, hport⟩ := h
  exact step_of_no_request hcode hmode hport

/-- Settles O10: the head is emitted with its number's draw, whose result only chooses the expander's byte. -/
theorem stepEmitsABusWrite : Obligations.StepEmitsABusWrite := by
  intro s addr f rest hcode hmode hq
  refine ⟨_, step_emit hcode hmode hq, rfl, rfl, hmode, rfl, rfl, rfl, rfl, rfl, ?_⟩
  simp [emitEvent, transmitOk, Config.draw]

/-- Settles O11: the head is emitted, and the time its draw adds is on top of the stated one. -/
theorem stepEmitsADelay : Obligations.StepEmitsADelay := by
  intro s ms rest hcode hmode hq
  refine ⟨_, step_emit hcode hmode hq, rfl, rfl, hmode, rfl, rfl, rfl, rfl, rfl, rfl, ?_⟩
  simp only [emitEvent, emitDelay_elapsed, delayMicros]
  omega

theorem step_of_complete {s : State} (hcode : s.fault.code = 0) (hmode : s.mode = .busy) (hq : s.q = [])
    (hop : ∀ p, s.op ≠ some (.sendString p)) : step s = .next { s with mode := .idle } := by
  rw [step_of_queue_empty hcode hmode hq, finishOrRefill_of_not_string hop]

/-- Settles O12: with an empty queue, a request that is no string takes the completing branch. -/
theorem stepCompletesARequest : Obligations.StepCompletesARequest := fun _ => step_of_complete

/-! The three outcomes of a string's read (R43, R117, R118). -/

theorem refillString_of_char {s : State} {b : Byte} (hread : Memory.read s.hostMem s.ptr = some b) (hb : b ≠ 0x00) :
    refillString s = .next { s with q := stringCharEvents b, ptr := s.ptr + 1 } := by
  simpa [refillString, hread] using hb

theorem refillString_of_terminator {s : State} (hread : Memory.read s.hostMem s.ptr = some 0x00) :
    refillString s = .next { s with mode := .idle } := by
  simp [refillString, hread]

theorem refillString_of_unadmitted {s : State} (hread : Memory.read s.hostMem s.ptr = none) :
    refillString s = .fault (.unadmittedRead s.ptr) := by
  simp [refillString, hread]

theorem step_of_string {s : State} {p : HostAddr} (hcode : s.fault.code = 0) (hmode : s.mode = .busy) (hq : s.q = [])
    (hop : s.op = some (.sendString p)) : step s = refillString s := by
  rw [step_of_queue_empty hcode hmode hq, finishOrRefill_of_string hop]

/-- Settles O13: a string with an empty queue reads its next byte, and the read has three outcomes. -/
theorem stepRefillsAString : Obligations.StepRefillsAString := by
  intro s p hcode hmode hq hop
  rw [step_of_string hcode hmode hq hop]
  exact ⟨fun b => refillString_of_char, refillString_of_terminator, refillString_of_unadmitted⟩

/-- R21, R22: a BUSY adapter's step emits the queue's head, ends the request or refills a string. -/
theorem step_busy_cases {s t : State} (hmode : s.mode = .busy) (h : step s = .next t) :
    (∃ e rest, s.q = e :: rest ∧ t = emitEvent (Config.draw s.draws) e rest s) ∨ t = { s with mode := .idle } ∨
      ∃ b, t = { s with q := stringCharEvents b, ptr := s.ptr + 1 } := by
  obtain ⟨-, ⟨w, held, why, hm, -⟩ | ⟨w, held, i, hm, -⟩ | ⟨e, rest, -, hq, ht⟩ | ⟨-, -, ht⟩ |
    ⟨p, b, -, -, -, -, -, ht⟩⟩ := step_cases h
  · simp [hmode] at hm
  · simp [hmode] at hm
  · exact .inl ⟨e, rest, hq, ht⟩
  · exact .inr (.inl ht)
  · exact .inr (.inr ⟨b, ht⟩)

/-- What a BUSY adapter's step leaves alone (R22, R166). -/
theorem step_busy_frame {s t : State} (hmode : s.mode = .busy) (h : step s = .next t) :
    t.port = s.port ∧ t.fault = s.fault := by
  obtain ⟨e, rest, -, rfl⟩ | rfl | ⟨b, rfl⟩ := step_busy_cases hmode h
  · obtain ⟨-, -, -, -, hfault, hport, -⟩ := emitEvent_adapter (Config.draw s.draws) e rest s
    exact ⟨hport, hfault⟩
  · exact ⟨rfl, rfl⟩
  · exact ⟨rfl, rfl⟩

/-- Settles O14: no case of a BUSY adapter's step looks at the port. -/
theorem busyAdapterHoldsThePort : Obligations.BusyAdapterHoldsThePort :=
  fun _ _ hmode h => (step_busy_frame hmode h).1

/-- R45: a request's acceptance keeps host memory and the stream. -/
theorem exec_hostMem_events {i : Instr} {s t : State} (h : exec i s = .next t) :
    t.hostMem = s.hostMem ∧ t.events = s.events := by
  rw [exec_eq] at h
  cases h
  exact ⟨rfl, rfl⟩

/-- R45: no case of a step writes host memory. -/
theorem step_hostMem {s t : State} (h : step s = .next t) : t.hostMem = s.hostMem := by
  obtain ⟨-, ⟨w, held, why, -, -, -, rfl⟩ | ⟨w, held, i, -, -, -, hexec⟩ | ⟨e, rest, -, -, rfl⟩ | ⟨-, -, rfl⟩ |
    ⟨p, b, -, -, -, -, -, rfl⟩⟩ := step_cases h
  · rfl
  · exact (exec_hostMem_events hexec).1
  · cases e <;> rfl
  · rfl
  · rfl

/-- Settles O15: host memory is the same list after a step and after an acceptance, so each address reads as before. -/
theorem nothingWritesHostMemory : Obligations.NothingWritesHostMemory := by
  constructor
  · intro s t a h
    rw [step_hostMem h]
  · intro i s t a h
    rw [(exec_hostMem_events h).1]

/-- Settles O16: of the cases of a step, only emission changes the stream. -/
theorem stepEmitsAtMostTheQueueHead : Obligations.StepEmitsAtMostTheQueueHead := by
  intro s t h
  obtain ⟨-, ⟨w, held, why, -, -, -, rfl⟩ | ⟨w, held, i, -, -, -, hexec⟩ | ⟨e, rest, hmode, hq, rfl⟩ | ⟨-, -, rfl⟩ |
    ⟨p, b, -, -, -, -, -, rfl⟩⟩ := step_cases h
  · exact .inl rfl
  · exact .inl (exec_hostMem_events hexec).2
  · obtain ⟨-, -, hrest, -, -, -, -, hevents⟩ := emitEvent_adapter (Config.draw s.draws) e rest s
    exact .inr ⟨e, rest, hmode, hq, hrest, hevents⟩
  · exact .inl rfl
  · exact .inl rfl

/-- R43: the one place where a BUSY, unfaulted adapter stops. -/
theorem step_busy_fault {s : State} {f : Fault} (hcode : s.fault.code = 0) (hmode : s.mode = .busy)
    (h : step s = .fault f) :
    f = .unadmittedRead s.ptr ∧ s.q = [] ∧ Memory.read s.hostMem s.ptr = none ∧ ∃ p, s.op = some (.sendString p) := by
  match hq : s.q with
  | e :: rest =>
    rw [step_emit hcode hmode hq] at h
    cases h
  | [] =>
    by_cases hstring : ∃ p, s.op = some (.sendString p)
    · obtain ⟨p, hp⟩ := hstring
      rw [step_of_string hcode hmode hq hp, refillString] at h
      split at h
      case h_1 hread =>
        cases h
        exact ⟨rfl, rfl, hread, p, hp⟩
      case h_2 => cases h
    · rw [step_of_complete hcode hmode hq (not_exists.mp hstring)] at h
      cases h

theorem takeWord_ne_refused (w : ReqWord) (s : State) (r : Refusal) : takeWord exec w s ≠ .refused r := by
  unfold takeWord
  split
  · simp
  · simp [exec_eq]

theorem finishOrRefill_ne_refused (s : State) (r : Refusal) : finishOrRefill s ≠ .refused r := by
  unfold finishOrRefill refillString
  split
  · split <;> simp
  · simp

/-- R166: no step is refused. -/
theorem step_ne_refused (s : State) (r : Refusal) : step s ≠ .refused r := by
  unfold step sequencerStep
  split
  · simp
  · split
    · split
      · simp
      · exact takeWord_ne_refused _ _ r
    · split
      · simp
      · exact finishOrRefill_ne_refused s r

/-- Settles O17: a BUSY adapter's step keeps the fault register, and stops only where a string's read is not admitted. -/
theorem acceptedRequestNeverFaults : Obligations.AcceptedRequestNeverFaults :=
  ⟨fun _ _ hmode h => (step_busy_frame hmode h).2, fun _ _ hmode hcode => step_busy_fault hcode hmode, step_ne_refused⟩

/-- Settles O19: reset writes these fields, and the sticky fault is the first thing a step looks at. -/
theorem onlyResetClearsAFault : Obligations.OnlyResetClearsAFault :=
  ⟨fun _ => ⟨rfl, rfl, rfl, rfl, rfl, rfl, rfl⟩, fun _ _ h => (step_cases h).1⟩

/-- Settles O60: the reset state is written out with these values, and a line of an expander without a byte has none. -/
theorem resetLeavesNoOutput : Obligations.ResetLeavesNoOutput := ⟨rfl, rfl, fun _ => rfl, rfl⟩

end Sys2Proof.Machine

/-! PROOFS. The sequencer's invariant: a BUSY adapter's queue holds legal events only, each kind of step keeps the invariant,
and so do reset and the host. -/

namespace Sys2Proof.Machine

@[simp] theorem eventLegal_send (v : Byte) (isData : Bool) : eventLegal (send v isData) = true := by
  simp [send, eventLegal]

@[simp] theorem eventLegal_delay (ms : Nat) : eventLegal (.delay ms) = true := rfl

/-- A legal BusWrite carries a frame (R93). -/
theorem frame_of_eventLegal {addr : Byte} {f : BusFrame} (h : eventLegal (.busWrite addr f) = true) :
    ∃ v isData, f = frame v isData := by
  simp only [eventLegal, Bool.and_eq_true] at h
  exact (isFramed_iff f).mp h.2

theorem eventLegal_of_mem_commandEvents {v : Byte} {ms : Nat} : ∀ e ∈ commandEvents v ms, eventLegal e = true := by
  simp [commandEvents]

theorem eventLegal_of_mem_stringCharEvents {b : Byte} : ∀ e ∈ stringCharEvents b, eventLegal e = true := by
  simp [stringCharEvents]

theorem eventLegal_of_mem_scrollLoop (count : Nat) : ∀ e ∈ scrollLoop count, eventLegal e = true := by
  induction count with
  | zero => simp [scrollLoop]
  | succ count ih => exact List.forall_mem_append.mpr ⟨eventLegal_of_mem_commandEvents, ih⟩

theorem eventLegal_of_mem_intEvents (n : BitVec 32) : ∀ e ∈ intEvents n, eventLegal e = true := by
  refine List.forall_mem_append.mpr ⟨?_, by simp⟩
  exact List.forall_mem_map.mpr fun b _ => eventLegal_send b true

/-- R42, R93: a request's expansion holds this block's events only. -/
theorem eventLegal_of_mem_initialExpansion (i : Instr) : ∀ e ∈ initialExpansion i, eventLegal e = true := by
  cases i with
  | frame isData v => simp [initialExpansion, frameEvents]
  | init => decide
  | clear => exact eventLegal_of_mem_commandEvents
  | setCursor row col => exact eventLegal_of_mem_commandEvents
  | sendChar c => simp [initialExpansion, charEvents]
  | sendString p => simp [initialExpansion]
  | sendInt n => exact eventLegal_of_mem_intEvents n
  | shiftRight => exact eventLegal_of_mem_commandEvents
  | shiftLeft => exact eventLegal_of_mem_commandEvents
  | scrollLeft => exact eventLegal_of_mem_scrollLoop scrollCount

theorem eventLegal_of_mem_queueOf {i : Instr} {q : List Event} (h : queueOf i q) : ∀ e ∈ q, eventLegal e = true := by
  rcases h with hsuffix | ⟨p, b, -, hsuffix⟩
  · exact fun e he => eventLegal_of_mem_initialExpansion i e (hsuffix.mem he)
  · exact fun e he => eventLegal_of_mem_stringCharEvents e (hsuffix.mem he)

/-- R21: after its head is emitted, the queue is still what is left of the same expansion. -/
theorem queueOf_tail {i : Instr} {e : Event} {rest : List Event} (h : queueOf i (e :: rest)) : queueOf i rest := by
  have htail : rest <:+ e :: rest := List.suffix_cons e rest
  rcases h with hsuffix | ⟨p, b, hi, hsuffix⟩
  · exact .inl (htail.trans hsuffix)
  · exact .inr ⟨p, b, hi, htail.trans hsuffix⟩

/-- In a state that meets the invariant, every queued event of a BUSY adapter is legal. -/
theorem State.SeqInv.queue_legal {s : State} (h : s.SeqInv) (hmode : s.mode = .busy) : ∀ e ∈ s.q, eventLegal e = true := by
  obtain ⟨i, -, hq⟩ := h.busyQueue hmode
  exact eventLegal_of_mem_queueOf hq

section
variable {s : State} (h : s.SeqInv)
include h

/-- R159, R160: the code of an illegal word is 1 or 2, and the adapter that took it is IDLE. -/
theorem State.SeqInv.after_raiseFault (why : DecodeFault) (w : ReqWord) (held : List ReqWord) (hmode : s.mode = .idle) :
    (raiseFault why w { s with port := held }).SeqInv where
  memWf := h.memWf
  codes := by cases why <;> simp [faultCode]
  noWord hcode := by cases why <;> simp [faultCode] at hcode
  faultIdle _ := hmode
  idleQueue _ := h.idleQueue hmode
  busyQueue hbusy := by simp [hmode] at hbusy
  legal := h.legal

/-- R21: an accepted request is at the start of its expansion. -/
theorem State.SeqInv.after_exec {t : State} {i : Instr} {held : List ReqWord} (hcode : s.fault.code = 0)
    (hexec : exec i { s with port := held } = .next t) : t.SeqInv := by
  rw [exec_eq] at hexec
  cases hexec
  exact
    { memWf := h.memWf
      codes := h.codes
      noWord := h.noWord
      faultIdle := fun hne => absurd hcode hne
      idleQueue := by simp
      busyQueue := fun _ => ⟨i, rfl, .inl (List.suffix_refl _)⟩
      legal := h.legal }

/-- R21: an emission moves the head of the queue to the stream. -/
theorem State.SeqInv.after_emitEvent {e : Event} {rest : List Event} (d : Draw) (hcode : s.fault.code = 0)
    (hmode : s.mode = .busy) (hq : s.q = e :: rest) : (emitEvent d e rest s).SeqInv := by
  obtain ⟨hm, hop, hrest, -, hfault, -, hmem, hevents⟩ := emitEvent_adapter d e rest s
  have hlegal := h.queue_legal hmode e (by simp [hq])
  obtain ⟨i, hi, hqueue⟩ := h.busyQueue hmode
  replace hqueue : queueOf i rest := queueOf_tail (hq ▸ hqueue)
  exact
    { memWf := hmem ▸ h.memWf
      codes := hfault ▸ h.codes
      noWord := hfault ▸ h.noWord
      faultIdle := fun hne => absurd (hfault ▸ hcode) hne
      idleQueue := by simp [hm, hmode]
      busyQueue := fun _ => ⟨i, hop.trans hi, hrest.symm ▸ hqueue⟩
      legal := by
        rw [hevents]
        exact List.forall_mem_append.mpr ⟨h.legal, by simpa using hlegal⟩ }

theorem State.SeqInv.after_complete (hq : s.q = []) : ({ s with mode := .idle } : State).SeqInv where
  memWf := h.memWf
  codes := h.codes
  noWord := h.noWord
  faultIdle _ := rfl
  idleQueue _ := hq
  busyQueue hbusy := by cases hbusy
  legal := h.legal

/-- R117: a refilled string stands before the two events of its next character. -/
theorem State.SeqInv.after_refill {p : HostAddr} (b : Byte) (hcode : s.fault.code = 0) (hmode : s.mode = .busy)
    (hop : s.op = some (.sendString p)) : ({ s with q := stringCharEvents b, ptr := s.ptr + 1 } : State).SeqInv where
  memWf := h.memWf
  codes := h.codes
  noWord := h.noWord
  faultIdle hne := absurd hcode hne
  idleQueue hidle := by simp [hmode] at hidle
  busyQueue _ := ⟨_, hop, .inr ⟨p, b, rfl, List.suffix_refl _⟩⟩
  legal := h.legal

end

/-- Settles O55, a case of the step at a time. -/
theorem stepKeepsTheSequencerInvariant : Obligations.StepKeepsTheSequencerInvariant := by
  intro s t h hstep
  obtain ⟨hcode, ⟨w, held, why, hmode, -, -, rfl⟩ | ⟨w, held, i, -, -, -, hexec⟩ | ⟨e, rest, hmode, hq, rfl⟩ |
    ⟨-, hq, rfl⟩ | ⟨p, b, hmode, -, hop, -, -, rfl⟩⟩ := step_cases hstep
  · exact h.after_raiseFault why w held hmode
  · exact h.after_exec hcode hexec
  · exact h.after_emitEvent _ hcode hmode hq
  · exact h.after_complete hq
  · exact h.after_refill b hcode hmode hop

end Sys2Proof.Machine

/-! PROOFS. `Execute` (rule R146) byte by byte: what each command of the set M does to the controller view, and which bytes
invalidate it. -/

namespace Sys2Proof.Machine

namespace ControllerView

theorem execute_data (c : ControllerView) (v : Byte) : c.execute v true = c.dataWrite v := rfl
theorem execute_clear (c : ControllerView) : c.execute cmdClear01 false = c.clearDisplay := rfl
theorem execute_shiftRight (c : ControllerView) : c.execute cmdShiftR1C false = c.shiftRight := rfl
theorem execute_shiftLeft (c : ControllerView) : c.execute cmdShiftL18 false = c.shiftLeft := rfl
theorem execute_entryMode (c : ControllerView) : c.execute cmdEntry06 false = c.entryMode := rfl
theorem execute_displayOn (c : ControllerView) : c.execute cmdDispOn0C false = c.displayOn := rfl
theorem execute_functionSet (c : ControllerView) : c.execute cmdFuncSet28 false = c.functionSet := rfl

/-- R146, R153: no test of `Execute` holds of a command byte below 0x80 outside the set M. -/
theorem execute_of_unmodelled (c : ControllerView) {v : Byte} (htop : v.toNat < 0x80)
    (hv : v ∉ [cmdClear01, cmdEntry06, cmdDispOn0C, cmdShiftL18, cmdShiftR1C, cmdFuncSet28]) :
    c.execute v false = c.invalidate := by
  have htop' : v.getLsbD 7 = false := by
    rw [BitVec.getLsbD, Nat.testBit_eq_decide_div_mod_eq, decide_eq_false_iff_not]
    omega
  simp only [List.mem_cons, List.not_mem_nil, or_false, not_or] at hv
  obtain ⟨hclear, hentry, hon, hleft, hright, hset⟩ := hv
  rw [execute, if_neg Bool.false_ne_true, if_neg hclear, if_neg hright, if_neg hleft, htop', if_neg Bool.false_ne_true,
    if_neg hentry, if_neg hon, if_neg hset]

/-- R146: everything a command byte can do. -/
theorem execute_command_cases (c : ControllerView) (v : Byte) :
    c.execute v false = c.clearDisplay ∨ c.execute v false = c.shiftRight ∨ c.execute v false = c.shiftLeft ∨
      c.execute v false = c.setAddr (v.extractLsb' 0 7) ∨ c.execute v false = c.entryMode ∨
      c.execute v false = c.displayOn ∨ c.execute v false = c.functionSet ∨ c.execute v false = c.invalidate := by
  rw [execute, if_neg Bool.false_ne_true]
  split_ifs
  · exact .inl rfl
  · exact .inr (.inl rfl)
  · exact .inr (.inr (.inl rfl))
  · exact .inr (.inr (.inr (.inl rfl)))
  · exact .inr (.inr (.inr (.inr (.inl rfl))))
  · exact .inr (.inr (.inr (.inr (.inr (.inl rfl)))))
  · exact .inr (.inr (.inr (.inr (.inr (.inr (.inl rfl))))))
  · exact .inr (.inr (.inr (.inr (.inr (.inr (.inr rfl))))))

/-- Data write in a row span (R147). -/
theorem dataWrite_of_index {c : ControllerView} {i : Fin 80} (v : Byte) (h : ddramIndex c.ac = some i) :
    c.dataWrite v =
      { c with
        ddram := c.ddram.set i v
        ac := if c.ID then nextAddr c.ac else prevAddr c.ac
        valid := c.valid && !c.S } := by
  unfold dataWrite
  rw [h]

/-- Data write outside the row spans (R147, R153). -/
theorem dataWrite_of_no_index {c : ControllerView} (v : Byte) (h : ddramIndex c.ac = none) :
    c.dataWrite v = c.invalidate := by
  unfold dataWrite
  rw [h]

theorem shiftLeft_shiftRight (c : ControllerView) : c.shiftRight.shiftLeft = c := by simp [shiftRight, shiftLeft]
theorem shiftRight_shiftLeft (c : ControllerView) : c.shiftLeft.shiftRight = c := by simp [shiftRight, shiftLeft]

theorem executeAll_nil (c : ControllerView) : c.executeAll [] = c := rfl

theorem executeAll_delay (c : ControllerView) (ms : Nat) (es : List Event) :
    c.executeAll (.delay ms :: es) = c.executeAll es := rfl

/-- A frame in the queue executes its byte, in a valid view (R93, R145). -/
theorem executeAll_frame (c : ControllerView) (addr v : Byte) (isData : Bool) (es : List Event) :
    c.executeAll (.busWrite addr (frame v isData) :: es) =
      (if c.valid then c.execute v isData else c).executeAll es := by
  obtain ⟨hvalue, hdata⟩ := frame_recovered v isData
  rw [executeAll, hvalue, hdata]

/-- R136, R137: each pass of SCROLL_LEFT's loop shifts the window left once. -/
theorem executeAll_scrollLoop {c : ControllerView} (hv : c.valid = true) (count : Nat) :
    c.executeAll (scrollLoop count) = { c with shift := c.shift - Fin.ofNat 40 count } := by
  induction count generalizing c with
  | zero => simp [scrollLoop, executeAll_nil]
  | succ count ih =>
    have hstep : c.executeAll (scrollLoop (count + 1)) = c.shiftLeft.executeAll (scrollLoop count) := by
      rw [scrollLoop, commandEvents_eq, List.cons_append, executeAll_frame, if_pos hv]
      rfl
    have hshift : c.shift - 1 - Fin.ofNat 40 count = c.shift - Fin.ofNat 40 (count + 1) := by
      rw [sub_sub, add_comm]
      congr 1
      exact Fin.ext (by simp [Fin.val_add])
    rw [hstep, ih (c := c.shiftLeft) hv]
    simp only [shiftLeft, hshift]

end ControllerView

/-- Settles O48: the shift commands are addition and subtraction of 1 modulo 40, which undo each other, and forty times 1 is
0 there. -/
theorem shiftCommandsMoveOnlyTheWindow : Obligations.ShiftCommandsMoveOnlyTheWindow := by
  intro c
  rw [show c.execute 0x1C false = c.shiftRight from c.execute_shiftRight,
    show c.execute 0x18 false = c.shiftLeft from c.execute_shiftLeft]
  refine ⟨⟨rfl, ?_⟩, ⟨rfl, ?_⟩, c.shiftLeft_shiftRight, c.shiftRight_shiftLeft, fun hv => ?_⟩
  · exact Fin.val_add c.shift 1
  · rw [Nat.add_comm]
    exact Fin.val_sub c.shift 1
  · rw [scrollEvents, ControllerView.executeAll_scrollLoop hv]
    simp [scrollCount]

/-- Settles O45: the byte goes into its place among the 80, and `ac` to the next address, with ID = 1 and S = 0. -/
theorem dataWriteStoresAndAdvances : Obligations.DataWriteStoresAndAdvances := by
  intro c v i hv hID hS hi
  rw [ControllerView.execute_data, ControllerView.dataWrite_of_index v hi]
  refine ⟨by simp [hv, hS], ?_, fun j hj => ?_, by simp [hID, nextAddr], rfl⟩
  · simp [Vector.get_eq_getElem]
  · simp [Vector.get_eq_getElem, Vector.getElem_set_ne, Fin.val_ne_of_ne hj.symm]

/-- Settles O46: without a place among the 80 the view is invalidated, and with one it stays valid only where S is 0. -/
theorem unmodelledDataWriteInvalidates : Obligations.UnmodelledDataWriteInvalidates := by
  intro c v h
  rw [ControllerView.execute_data]
  cases hi : ddramIndex c.ac with
  | none => rw [ControllerView.dataWrite_of_no_index v hi, ControllerView.invalidate_valid]
  | some i =>
    have hS : c.S = true := h.resolve_left (by simp [hi])
    simp [ControllerView.dataWrite_of_index v hi, hS]

/-- Settles O47: 0x01 is the clear command. -/
theorem clearCommandHomesAndFills : Obligations.ClearCommandHomesAndFills := ControllerView.execute_clear

/-- R107, R110: in the grid, the column does not reach the bits of its row's base, so the command byte is 0x80 over the sum
of the row's first address and the column. -/
theorem cursorByte_of_grid (row : BitVec 32) {col : Byte} (hcol : col.toNat < 16) :
    cursorByte row col = (1 : BitVec 1) ++ ((if row = 0 then 0x00 else 0x40) + col.extractLsb' 0 7 : BitVec 7) := by
  have hrow0 : ∀ col : Byte, col.toNat < 16 → col ||| 0x80 = (1 : BitVec 1) ++ (0x00 + col.extractLsb' 0 7 : BitVec 7) := by
    decide +kernel
  have hrow1 : ∀ col : Byte, col.toNat < 16 → col ||| 0xC0 = (1 : BitVec 1) ++ (0x40 + col.extractLsb' 0 7 : BitVec 7) := by
    decide +kernel
  rw [cursorByte_eq]
  by_cases hzero : row = 0
  · rw [if_pos hzero, if_pos hzero, hrow0 col hcol]
  · rw [if_neg hzero, if_neg hzero, hrow1 col hcol]

/-- Settles O50: the byte is the set-address command for an address in the row's span. -/
theorem setCursorReachesTheGridPosition : Obligations.SetCursorReachesTheGridPosition := by
  intro c row col hcol
  rw [cursorByte_of_grid row hcol, c.execute_one_append]
  refine c.setAddr_of_isSome ((ddramIndex_isSome_iff _).mpr ?_)
  have hlow : (col.extractLsb' 0 7).toNat = col.toNat := by
    rw [BitVec.extractLsb'_toNat]
    omega
  by_cases hzero : row = 0
  · left
    rw [if_pos hzero, BitVec.toNat_add, hlow, show (0x00 : BitVec 7).toNat = 0 from rfl]
    omega
  · right
    rw [if_neg hzero, BitVec.toNat_add, hlow, show (0x40 : BitVec 7).toNat = 0x40 from rfl]
    omega

/-- Settles O51: the three bytes are the flag commands. -/
theorem flagCommandsSetTheirFlags : Obligations.FlagCommandsSetTheirFlags :=
  fun c => ⟨c.execute_entryMode, c.execute_displayOn, c.execute_functionSet⟩

/-- Settles O52: such a byte reaches the last branch of `Execute`. -/
theorem commandOutsideTheSetInvalidates : Obligations.CommandOutsideTheSetInvalidates := by
  intro c v htop hv
  rw [c.execute_of_unmodelled htop hv, ControllerView.invalidate_valid]

/-- Settles O53: a failed transmit takes the other branch in the view and in the pins, and neither is the adapter's. -/
theorem failedTransmitInvalidatesTheView : Obligations.FailedTransmitInvalidatesTheView := by
  intro s d addr f rest
  refine ⟨fun hfail => ?_, rfl⟩
  have hnot : ¬ transmitOk d = true := by simpa [transmitOk] using hfail
  rw [emitBusWrite_view, emitBusWrite_expander, viewAfterTransmit, if_neg hnot, if_neg hnot]
  exact ⟨rfl, rfl⟩

/-- R141, R154: column `k` of the 40 of a row has the place `k` after the row's first. -/
theorem ddramIndex_row_column (r : Fin 2) {k : Nat} (hk : k < 40) :
    ddramIndex (BitVec.ofNat 7 (0x40 * r.val + k)) = some ⟨40 * r.val + k, by omega⟩ := by
  have hnat : (BitVec.ofNat 7 (0x40 * r.val + k)).toNat = 0x40 * r.val + k := by
    rw [BitVec.toNat_ofNat]
    omega
  unfold ddramIndex
  obtain hr | hr : r.val = 0 ∨ r.val = 1 := by omega
  · rw [dif_pos (by omega)]
    exact congrArg some (Fin.ext (by dsimp only; omega))
  · rw [dif_neg (by omega), dif_pos (by omega)]
    exact congrArg some (Fin.ext (by dsimp only; omega))

/-- Settles O54: a position of the window is a column of the 40 of its row. -/
theorem displayShowsTheShiftedWindow : Obligations.DisplayShowsTheShiftedWindow := by
  intro c r col
  constructor
  · rintro (h | h) <;> simp [ControllerView.visible, h]
  · intro hv hD
    have hcol : (col.val + 40 - c.shift.val) % 40 < 40 := Nat.mod_lt _ (by decide)
    rw [ControllerView.visible, hv, hD, ddramIndex_row_column r hcol]
    rfl

end Sys2Proof.Machine

/-! PROOFS. Frames on the controller's pins (rules R143 to R145): between frames, a frame executes its byte once; so a queue
whose transmits succeed executes its frames' bytes in order (R152). -/

namespace Sys2Proof.Machine

namespace ControllerView

/-- The view with other pins and another nibble latch (R141): the part a byte's execution has nothing to do with. -/
def withLatch (c : ControllerView) (pins : Byte) (phase : Phase) (held : Nibble) (heldRs : Bool) : ControllerView :=
  { c with pins := pins, phase := phase, held := held, heldRs := heldRs }

theorem execute_withLatch (c : ControllerView) (p : Byte) (ph : Phase) (n : Nibble) (r : Bool) (v : Byte) (rs : Bool) :
    (c.withLatch p ph n r).execute v rs = (c.execute v rs).withLatch p ph n r := execute_latch c v rs p ph n r

theorem latch_hi {c : ControllerView} (h : c.phase = .hi) (n : Nibble) (rs : Bool) :
    c.latch n rs = c.withLatch c.pins .lo n rs := by
  rw [latch, h]
  rfl

/-- R144: a low nibble with the RS of the high one completes a byte. -/
theorem latch_lo (c : ControllerView) (p : Byte) (high low : Nibble) (rs : Bool) :
    (c.withLatch p .lo high rs).latch low rs = (c.execute (high ++ low) rs).withLatch p .hi high rs := by
  have hlatch : (c.withLatch p .lo high rs).latch low rs =
      { (c.withLatch p .lo high rs).execute (high ++ low) rs with phase := .hi } := if_pos rfl
  rw [hlatch, execute_withLatch]
  rfl

/-- R143, R144: the first pulse of E puts the high nibble and RS in the latch. -/
theorem seeByte_first_pulse {c : ControllerView} (h : c.betweenFrames) (v : Byte) (isData : Bool) :
    (c.seeByte (frame v isData).b0).seeByte (frame v isData).b1 =
      c.withLatch (frame v isData).b1 .lo (v.extractLsb' 4 4) isData := by
  obtain ⟨hv, hphase, hE⟩ := h
  obtain ⟨hb0, hb1, -, -, hhigh, hrs, -, -⟩ := frame_pins v isData
  have hhold : c.seeByte (frame v isData).b0 = { c with pins := (frame v isData).b0 } := seeByte_hold hv (.inl hE)
  have hfall := seeByte_fall (c := { c with pins := (frame v isData).b0 }) hv hb0 hb1
  rw [hhold, hfall, latch_hi (c := { c with pins := (frame v isData).b0 }) hphase, hhigh, hrs]
  rfl

/-- R143, R144: the second pulse of E completes the byte that the latch began, and executes it. -/
theorem seeByte_second_pulse {c : ControllerView} (hv : c.valid = true) (v : Byte) (isData : Bool) :
    ((c.withLatch (frame v isData).b1 .lo (v.extractLsb' 4 4) isData).seeByte (frame v isData).b2).seeByte
        (frame v isData).b3 =
      (c.execute v isData).withLatch (frame v isData).b3 .hi (v.extractLsb' 4 4) isData := by
  obtain ⟨-, hb1, hb2, hb3, -, -, hlow, hrs⟩ := frame_pins v isData
  have hhold : (c.withLatch (frame v isData).b1 .lo (v.extractLsb' 4 4) isData).seeByte (frame v isData).b2 =
      c.withLatch (frame v isData).b2 .lo (v.extractLsb' 4 4) isData := seeByte_hold hv (.inl hb1)
  have hfall := seeByte_fall (c := c.withLatch (frame v isData).b2 .lo (v.extractLsb' 4 4) isData) hv hb2 hb3
  rw [hhold, hfall, hrs, latch_lo, hlow, nibbles_append]
  rfl

end ControllerView

/-- Settles O43: E pulses twice in a frame, and the two nibbles latched are the byte's. -/
theorem frameExecutesItsByteOnce : Obligations.FrameExecutesItsByteOnce := by
  intro c v isData h
  obtain ⟨-, -, -, hb3, -⟩ := frame_pins v isData
  refine ⟨?_, hb3⟩
  rw [ControllerView.seeFrame, ControllerView.seeByte_first_pulse h, ControllerView.seeByte_second_pulse h.1]
  rfl

namespace ControllerView

/-- Views of one controller state differ in the pins and the nibble latch only. -/
theorem sameController_iff (c c' : ControllerView) :
    c.sameController c' ↔
      c = c'.withLatch c.pins c.phase c.held c.heldRs := by
  cases c
  cases c'
  simp only [sameController, withLatch, mk.injEq, true_and]

theorem sameController_refl (c : ControllerView) : c.sameController c := (sameController_iff c c).mpr rfl

/-- The pins and the nibble latch have no part in what a byte does to the controller. -/
theorem sameController.execute {c c' : ControllerView} (h : c.sameController c') (v : Byte) (rs : Bool) :
    (c.execute v rs).sameController (c'.execute v rs) := by
  rw [sameController_iff] at h
  rw [h, execute_withLatch]
  exact (sameController_iff ..).mpr rfl

/-- What a frame does to the controller: a valid view between frames executes its byte, an invalid one ignores it. -/
theorem seeFrame_sameController {c c' : ControllerView} (h : c.sameController c')
    (hbetween : c.valid = true → c.betweenFrames) (v : Byte) (isData : Bool) :
    (c.seeFrame (frame v isData)).sameController (if c'.valid then c'.execute v isData else c') := by
  cases hv : c.valid with
  | true =>
    rw [if_pos (h.1.symm.trans hv), (frameExecutesItsByteOnce c v isData (hbetween hv)).1]
    exact h.execute v isData
  | false =>
    rw [if_neg (by simp [← h.1, hv]), seeFrame_invalid hv]
    exact h

/-- R145: after a frame the view is between frames again, or invalid. -/
theorem seeFrame_betweenFrames {c : ControllerView} (hbetween : c.valid = true → c.betweenFrames) (v : Byte) (isData : Bool)
    (h : (c.seeFrame (frame v isData)).valid = true) : (c.seeFrame (frame v isData)).betweenFrames := by
  cases hv : c.valid with
  | true =>
    obtain ⟨hsee, hE⟩ := frameExecutesItsByteOnce c v isData (hbetween hv)
    rw [hsee] at h ⊢
    exact ⟨h, rfl, hE⟩
  | false =>
    rw [seeFrame_invalid hv, hv] at h
    cases h

end ControllerView

/-- Outside an INIT, a successful transmit shows the view its frame (R143). -/
theorem viewAfterTransmit_of_ok {s : State} {d : Draw} (hop : s.op ≠ some .init) (hok : transmitOk d = true) (f : BusFrame) :
    viewAfterTransmit d f s = s.view.seeFrame f := by
  simp [viewAfterTransmit, hok, runsInit, hop]

/-- Outside an INIT, a delay does nothing to the view (R155). -/
theorem viewAfterDelay_of_not_init {s : State} (hop : s.op ≠ some .init) (rest : List Event) :
    viewAfterDelay rest s = s.view := by
  simp [viewAfterDelay, runsInit, hop]

theorem emitAll_cons {s : State} {e : Event} {rest : List Event} (hq : s.q = e :: rest) (d : Draw) (ds : List Draw) :
    s.emitAll (d :: ds) = (emitEvent d e rest s).emitAll ds := by
  simp [State.emitAll, hq]

/-- R145, R152: the controller follows the queue from any view `c` of its state. -/
theorem emitAll_sameController (ds : List Draw) {s : State} {c : ControllerView} (hop : s.op ≠ some .init)
    (hbetween : s.view.valid = true → s.view.betweenFrames) (hsame : s.view.sameController c)
    (hlegal : ∀ e ∈ s.q, eventLegal e = true) (hlen : ds.length = s.q.length) (hok : transmitsOk s.q ds = true) :
    (s.emitAll ds).view.sameController (c.executeAll s.q) := by
  induction ds generalizing s c with
  | nil =>
    rw [List.length_nil, eq_comm, List.length_eq_zero_iff] at hlen
    rw [hlen]
    exact hsame
  | cons d ds ih =>
    match hq : s.q with
    | [] => simp [hq] at hlen
    | .busWrite addr f :: rest =>
      rw [hq] at hlegal hlen hok
      obtain ⟨hhead, hrest⟩ := List.forall_mem_cons.mp hlegal
      obtain ⟨v, isData, rfl⟩ := frame_of_eventLegal hhead
      obtain ⟨hd, hds⟩ := Bool.and_eq_true_iff.mp hok
      have hview : (emitEvent d (.busWrite addr (frame v isData)) rest s).view = s.view.seeFrame (frame v isData) :=
        viewAfterTransmit_of_ok hop hd _
      rw [emitAll_cons hq, ControllerView.executeAll_frame]
      exact ih hop (hview ▸ ControllerView.seeFrame_betweenFrames hbetween v isData)
        (hview ▸ ControllerView.seeFrame_sameController hsame hbetween v isData) hrest (Nat.succ.inj hlen) hds
    | .delay ms :: rest =>
      rw [hq] at hlegal hlen hok
      have hview : (emitEvent d (.delay ms) rest s).view = s.view := viewAfterDelay_of_not_init hop rest
      rw [emitAll_cons hq, ControllerView.executeAll_delay]
      exact ih hop (hview ▸ hbetween) (hview ▸ hsame) (List.forall_mem_cons.mp hlegal).2 (Nat.succ.inj hlen) hok

/-- Settles O44: the machine's own view is one of its controller's state. -/
theorem requestExecutesItsBytesInOrder : Obligations.RequestExecutesItsBytesInOrder :=
  fun s ds hop hbetween hlegal hlen hok =>
    emitAll_sameController ds hop (fun _ => hbetween) s.view.sameController_refl hlegal hlen hok

end Sys2Proof.Machine

/-! PROOFS. The controller view's invariant (rules R142 to R151): a valid view stays as an INIT left it but for what the
commands of M move, and an INIT's events lead to the post-INIT state or to an invalid view. -/

namespace Sys2Proof.Machine

namespace ControllerView

/-- The address is in a row span and the flags are those of rule R142's post-INIT state. -/
def asInitLeft (c : ControllerView) : Prop :=
  (ddramIndex c.ac).isSome = true ∧ c.ID = true ∧ c.S = false ∧ c.D = true ∧ c.C = false ∧ c.B = false ∧ c.DL = false ∧
    c.N = true ∧ c.F = false

theorem asInitLeft.dataWrite {c : ControllerView} (h : c.asInitLeft) (v : Byte) : (c.dataWrite v).asInitLeft := by
  cases hi : ddramIndex c.ac with
  | none => rwa [dataWrite_of_no_index v hi]
  | some i =>
    rw [dataWrite_of_index v hi]
    obtain ⟨haddr, hflags⟩ := h
    obtain ⟨hnext, -⟩ := ddramIndex_next c.ac haddr
    exact ⟨by simpa [hflags.1] using hnext, hflags⟩

theorem asInitLeft.setAddr {c : ControllerView} (h : c.asInitLeft) (a : BitVec 7) : (c.setAddr a).asInitLeft := by
  by_cases ha : (ddramIndex a).isSome = true
  · rw [setAddr_of_isSome c ha]
    exact ⟨ha, h.2⟩
  · rwa [setAddr_of_not_isSome c ha]

/-- R147, R148, R150, R151: a byte executed keeps the address in a row span and the flags as INIT left them. -/
theorem asInitLeft.execute {c : ControllerView} (h : c.asInitLeft) (v : Byte) (rs : Bool) :
    (c.execute v rs).asInitLeft := by
  cases rs with
  | true => exact h.dataWrite v
  | false =>
    obtain ⟨haddr, hID, hS, hD, hC, hB, hDL, hN, hF⟩ := h
    rcases c.execute_command_cases v with heq | heq | heq | heq | heq | heq | heq | heq <;> rw [heq]
    · exact ⟨rfl, rfl, hS, hD, hC, hB, hDL, hN, hF⟩
    · exact ⟨haddr, hID, hS, hD, hC, hB, hDL, hN, hF⟩
    · exact ⟨haddr, hID, hS, hD, hC, hB, hDL, hN, hF⟩
    · exact asInitLeft.setAddr ⟨haddr, hID, hS, hD, hC, hB, hDL, hN, hF⟩ _
    · exact ⟨haddr, rfl, rfl, hD, hC, hB, hDL, hN, hF⟩
    · exact ⟨haddr, hID, hS, rfl, rfl, rfl, hDL, hN, hF⟩
    · exact ⟨haddr, hID, hS, hD, hC, hB, rfl, rfl, rfl⟩
    · exact ⟨haddr, hID, hS, hD, hC, hB, hDL, hN, hF⟩

/-- What `State.ViewInv` says of the view alone, beside the expander's byte. -/
def settled (c : ControllerView) (expander : Option Byte) : Prop :=
  c.valid = true → expander = some c.pins ∧ c.betweenFrames ∧ c.asInitLeft

theorem settled_of_invalid {c : ControllerView} (h : c.valid = false) (expander : Option Byte) : c.settled expander := by
  simp [settled, h]

/-- R142: the post-INIT state, on pins that hold INIT's last byte. -/
theorem settled_afterInit (c : ControllerView) : c.afterInit.settled (some 0x68) :=
  fun _ => ⟨rfl, ⟨rfl, rfl, (by decide : (0x68 : Byte).getLsbD 2 = false)⟩, rfl, rfl, rfl, rfl, rfl, rfl, rfl, rfl, rfl⟩

/-- R145, R146: a frame leaves the view settled on the frame's last byte. -/
theorem settled.seeFrame {c : ControllerView} {expander : Option Byte} (h : c.settled expander) (v : Byte) (isData : Bool) :
    (c.seeFrame (frame v isData)).settled (some (frame v isData).b3) := by
  cases hv : c.valid with
  | false =>
    rw [seeFrame_invalid hv]
    exact settled_of_invalid hv _
  | true =>
    obtain ⟨-, hbetween, hinit⟩ := h hv
    obtain ⟨hsee, hE⟩ := frameExecutesItsByteOnce c v isData hbetween
    rw [hsee]
    exact fun hvalid => ⟨rfl, ⟨hvalid, rfl, hE⟩, hinit.execute v isData⟩

end ControllerView

/-- What `State.ViewInv` says of an INIT in progress. -/
def State.initWatched (s : State) : Prop :=
  s.mode = .busy → s.op = some .init →
    (s.q ≠ [] → s.view.valid = false) ∧ (s.q = [.delay 100] → s.initOk = true → s.expander = some 0x68)

theorem viewInv_iff (s : State) : s.ViewInv ↔ s.initWatched ∧ s.view.settled s.expander := by
  constructor
  · rintro ⟨hinvalid, hinitPins, hpins, hphase, hE, haddr, hflags⟩
    exact ⟨fun hmode hop => ⟨hinvalid hmode hop, hinitPins hmode hop⟩,
      fun hv => ⟨hpins hv, ⟨hv, hphase hv, hE hv⟩, haddr hv, hflags hv⟩⟩
  · rintro ⟨hwatched, hsettled⟩
    exact
      { initInvalid := fun hmode hop => (hwatched hmode hop).1
        initPins := fun hmode hop => (hwatched hmode hop).2
        pins := fun hv => (hsettled hv).1
        phase := fun hv => (hsettled hv).2.1.2.1
        enableLow := fun hv => (hsettled hv).2.1.2.2
        addr := fun hv => (hsettled hv).2.2.1
        flags := fun hv => (hsettled hv).2.2.2 }

theorem initWatched_of_idle {s : State} (h : s.mode = .idle) : s.initWatched := by
  simp [State.initWatched, h]

theorem initWatched_of_not_init {s : State} (h : s.op ≠ some .init) : s.initWatched :=
  fun _ hop => absurd hop h

/-- R21, R97: an INIT's queue is what is left of its table's events. -/
theorem State.SeqInv.init_queue {s : State} (h : s.SeqInv) (hmode : s.mode = .busy) (hop : s.op = some .init) :
    s.q <:+ initEvents := by
  obtain ⟨i, hi, hq⟩ := h.busyQueue hmode
  obtain rfl : i = .init := Option.some.inj (hi.symm.trans hop)
  rcases hq with hsuffix | ⟨p, b, hne, -⟩
  · exact hsuffix
  · cases hne

/-- R97, R98: INIT's last two events. -/
theorem eq_of_pair_suffix_initEvents {e e' : Event} (h : [e, e'] <:+ initEvents) :
    e = .busWrite 0x4E (frame 0x06 false) ∧ e' = .delay 100 := by
  have hdrop := List.suffix_iff_eq_drop.mp h
  rw [show initEvents.drop (initEvents.length - [e, e'].length) = [.busWrite 0x4E (frame 0x06 false), .delay 100] from rfl]
    at hdrop
  simpa using hdrop

theorem eq_of_singleton_suffix_initEvents {e : Event} (h : [e] <:+ initEvents) : e = .delay 100 := by
  have hdrop := List.suffix_iff_eq_drop.mp h
  rw [show initEvents.drop (initEvents.length - [e].length) = [.delay 100] from rfl] at hdrop
  simpa using hdrop

section
variable {s : State} {rest : List Event}

/-- R142: during an INIT no transmit makes the view valid. -/
theorem viewAfterTransmit_of_init {d : Draw} {f : BusFrame} (hop : s.op = some .init) (hv : s.view.valid = false) :
    (viewAfterTransmit d f s).valid = false := by
  unfold viewAfterTransmit
  split
  · simp [runsInit, hop, hv]
  · rfl

/-- R142, R163: a transmit keeps the watch of an INIT; INIT's last frame puts 0x68 on the pins. -/
theorem initWatched_emitBusWrite {addr : Byte} {f : BusFrame} (d : Draw) (hseq : s.SeqInv) (h : s.initWatched)
    (hq : s.q = .busWrite addr f :: rest) : (emitBusWrite d addr f rest s).initWatched := by
  intro hmode hop
  obtain ⟨hinvalid, -⟩ := h hmode hop
  refine ⟨fun _ => viewAfterTransmit_of_init hop (hinvalid (by simp [hq])), fun hrest hok => ?_⟩
  have hsuffix := hseq.init_queue hmode hop
  rw [emitBusWrite_q] at hrest
  rw [hq, hrest] at hsuffix
  obtain ⟨hlast, -⟩ := eq_of_pair_suffix_initEvents hsuffix
  obtain ⟨-, rfl⟩ := Event.busWrite.inj hlast
  rw [emitBusWrite_initOk, Bool.and_eq_true] at hok
  rw [emitBusWrite_expander, if_pos hok.2]
  rfl

/-- R143, R153, R163: after a transmit the view is settled or invalid. -/
theorem settled_emitBusWrite {addr v : Byte} {isData : Bool} (d : Draw) (hmode : s.mode = .busy) (hwatched : s.initWatched)
    (h : s.view.settled s.expander) (hq : s.q = .busWrite addr (frame v isData) :: rest) :
    (viewAfterTransmit d (frame v isData) s).settled (emitBusWrite d addr (frame v isData) rest s).expander := by
  by_cases hop : s.op = some .init
  · obtain ⟨hinvalid, -⟩ := hwatched hmode hop
    exact ControllerView.settled_of_invalid (viewAfterTransmit_of_init hop (hinvalid (by simp [hq]))) _
  · by_cases hok : transmitOk d = true
    · rw [viewAfterTransmit_of_ok hop hok, emitBusWrite_expander, if_pos hok]
      exact h.seeFrame v isData
    · rw [viewAfterTransmit, if_neg hok]
      exact ControllerView.settled_of_invalid rfl _

theorem viewAfterDelay_of_rest (hrest : rest ≠ []) : viewAfterDelay rest s = s.view := by
  simp [viewAfterDelay, hrest]

theorem viewAfterDelay_of_not_ok (hok : s.initOk = false) : viewAfterDelay rest s = s.view := by
  simp [viewAfterDelay, hok]

/-- R142: a delay keeps the watch of an INIT, none of whose delays is before its last one. -/
theorem initWatched_emitDelay {ms : Nat} (d : Draw) (hseq : s.SeqInv) (h : s.initWatched) (hq : s.q = .delay ms :: rest) :
    (emitDelay d ms rest s).initWatched := by
  intro hmode hop
  obtain ⟨hinvalid, -⟩ := h hmode hop
  rw [emitDelay_q, emitDelay_view]
  refine ⟨fun hrest => ?_, fun hrest _ => ?_⟩
  · rw [viewAfterDelay_of_rest hrest]
    exact hinvalid (by simp [hq])
  · have hsuffix := hseq.init_queue hmode hop
    rw [hq, hrest] at hsuffix
    cases (eq_of_pair_suffix_initEvents hsuffix).1

/-- R142, R155: a delay leaves the view alone, but INIT's last gives the post-INIT state if every transmit succeeded. -/
theorem settled_emitDelay {ms : Nat} (hmode : s.mode = .busy) (hseq : s.SeqInv) (hwatched : s.initWatched)
    (h : s.view.settled s.expander) (hq : s.q = .delay ms :: rest) : (viewAfterDelay rest s).settled s.expander := by
  unfold viewAfterDelay
  split
  case isFalse => exact h
  case isTrue hlast =>
    simp only [Bool.and_eq_true, runsInit, decide_eq_true_eq, List.isEmpty_iff] at hlast
    obtain ⟨⟨hop, rfl⟩, hok⟩ := hlast
    have hms : Event.delay ms = .delay 100 := eq_of_singleton_suffix_initEvents (hq ▸ hseq.init_queue hmode hop)
    rw [(hwatched hmode hop).2 (hms ▸ hq) hok]
    exact s.view.settled_afterInit

theorem viewAtAcceptance_of_not_init {i : Instr} (hi : i ≠ .init) (c : ControllerView) : viewAtAcceptance i c = c := by
  unfold viewAtAcceptance
  split
  · exact absurd rfl hi
  · rfl

/-- R142: an accepted INIT starts its watch with an invalid view, and any other request leaves the view alone. -/
theorem State.ViewInv.after_exec {t : State} {i : Instr} {held : List ReqWord} (h : s.ViewInv)
    (hexec : exec i { s with port := held } = .next t) : t.ViewInv := by
  rw [exec_eq] at hexec
  cases hexec
  obtain ⟨-, hsettled⟩ := (viewInv_iff s).mp h
  rw [viewInv_iff]
  by_cases hi : i = .init
  · subst hi
    exact ⟨fun _ _ => ⟨fun _ => rfl, fun hq => by cases hq⟩, ControllerView.settled_of_invalid rfl _⟩
  · have hview : viewAtAcceptance i s.view = s.view := viewAtAcceptance_of_not_init hi s.view
    exact ⟨initWatched_of_not_init (by simpa using hi), by simpa only [hview] using hsettled⟩

/-- R142 to R146, R163: an emission keeps the view's invariant. -/
theorem State.ViewInv.after_emitEvent {e : Event} (d : Draw) (hseq : s.SeqInv) (h : s.ViewInv) (hmode : s.mode = .busy)
    (hq : s.q = e :: rest) : (emitEvent d e rest s).ViewInv := by
  obtain ⟨hwatched, hsettled⟩ := (viewInv_iff s).mp h
  rw [viewInv_iff]
  cases e with
  | busWrite addr f =>
    obtain ⟨v, isData, rfl⟩ := frame_of_eventLegal (hseq.queue_legal hmode (.busWrite addr f) (by simp [hq]))
    exact ⟨initWatched_emitBusWrite d hseq hwatched hq, settled_emitBusWrite d hmode hwatched hsettled hq⟩
  | delay ms => exact ⟨initWatched_emitDelay d hseq hwatched hq, settled_emitDelay hmode hseq hwatched hsettled hq⟩

end

/-- The invariant of a state whose view and expander another one has, with no INIT in progress. -/
theorem State.ViewInv.of_view_eq {s t : State} (h : s.ViewInv) (hwatched : t.initWatched) (hview : t.view = s.view)
    (hexpander : t.expander = s.expander) : t.ViewInv := by
  rw [viewInv_iff, hview, hexpander]
  exact ⟨hwatched, ((viewInv_iff s).mp h).2⟩

/-- Settles O56, a case of the step at a time: only an emission and an INIT's acceptance touch the view. -/
theorem stepKeepsTheViewInvariant : Obligations.StepKeepsTheViewInvariant := by
  intro s t hseq h hstep
  obtain ⟨-, ⟨w, held, why, hmode, -, -, rfl⟩ | ⟨w, held, i, -, -, -, hexec⟩ | ⟨e, rest, hmode, hq, rfl⟩ | ⟨-, -, rfl⟩ |
    ⟨p, b, -, -, hop, -, -, rfl⟩⟩ := step_cases hstep
  · exact h.of_view_eq (initWatched_of_idle hmode) rfl rfl
  · exact h.after_exec hexec
  · exact h.after_emitEvent _ hseq hmode hq
  · exact h.of_view_eq (initWatched_of_idle rfl) rfl rfl
  · exact h.of_view_eq (initWatched_of_not_init (by simp [hop])) rfl rfl

/-- A state whose view is invalid, with no INIT watched, meets the view's invariant. -/
theorem viewInv_of_invalid {s : State} (hwatched : s.initWatched) (hv : s.view.valid = false) : s.ViewInv :=
  (viewInv_iff s).mpr ⟨hwatched, ControllerView.settled_of_invalid hv _⟩

/-- A state right after a reset meets the sequencer's invariant. -/
theorem restart_seqInv {s : State} (h : Memory.wf s.hostMem) : s.restart.SeqInv where
  memWf := h
  codes := .inl rfl
  noWord _ := rfl
  faultIdle _ := rfl
  idleQueue _ := rfl
  busyQueue hbusy := by cases hbusy
  legal := by simp

theorem restart_viewInv (s : State) : s.restart.ViewInv := viewInv_of_invalid (initWatched_of_idle rfl) rfl

/-- Settles O57: the state after power-on is its own restart. -/
theorem resetMeetsTheInvariants : Obligations.ResetMeetsTheInvariants :=
  ⟨restart_seqInv (s := State.reset) State.reset_memory_wf, restart_viewInv State.reset⟩

/-- Settles O58: presenting and storing touch nothing of the invariants but the canonical form of host memory, which the
store keeps; a reset and a power loss leave an invalid view. -/
theorem hostActionsKeepTheInvariants : Obligations.HostActionsKeepTheInvariants := by
  intro s hseq hview
  obtain ⟨hmem, hcodes, hnoWord, hfaultIdle, hidleQueue, hbusyQueue, hlegal⟩ := hseq
  obtain ⟨hwatched, -⟩ := (viewInv_iff s).mp hview
  refine ⟨fun w => ⟨?_, hview.of_view_eq hwatched rfl rfl⟩, fun a b => ⟨?_, hview.of_view_eq hwatched rfl rfl⟩,
    ⟨restart_seqInv hmem, restart_viewInv s⟩, ?_, viewInv_of_invalid ?_ rfl⟩
  · exact ⟨hmem, hcodes, hnoWord, hfaultIdle, hidleQueue, hbusyQueue, hlegal⟩
  · exact ⟨Memory.write_wf hmem a b, hcodes, hnoWord, hfaultIdle, hidleQueue, hbusyQueue, hlegal⟩
  · exact ⟨hmem, hcodes, hnoWord, hfaultIdle, hidleQueue, hbusyQueue, hlegal⟩
  · exact fun _ _ => ⟨fun _ => rfl, fun _ hok => by simp at hok⟩

/-! The whole of an INIT (R142), with any draws. -/

/-- R142: after a failure, or with one ahead, an INIT's view ends invalid. -/
theorem emitAll_init_invalid (ds : List Draw) {s : State} (hop : s.op = some .init) (hv : s.view.valid = false)
    (hlen : ds.length = s.q.length) (hfail : s.initOk = false ∨ transmitsOk s.q ds = false) :
    (s.emitAll ds).view.valid = false := by
  induction ds generalizing s with
  | nil => exact hv
  | cons d ds ih =>
    match hq : s.q with
    | [] => simp [hq] at hlen
    | .busWrite addr f :: rest =>
      rw [hq] at hlen hfail
      rw [emitAll_cons hq]
      refine ih hop (viewAfterTransmit_of_init hop hv) (Nat.succ.inj hlen) ?_
      rcases hfail with hnot | hahead
      · exact .inl (Bool.and_eq_false_iff.mpr (.inl hnot))
      · rcases Bool.and_eq_false_iff.mp hahead with hd | hds
        · exact .inl (Bool.and_eq_false_iff.mpr (.inr hd))
        · exact .inr hds
    | .delay ms :: rest =>
      rw [hq] at hlen hfail
      rw [emitAll_cons hq]
      refine ih hop ?_ (Nat.succ.inj hlen) hfail
      rcases hfail with hnot | hahead
      · rwa [emitEvent, emitDelay_view, viewAfterDelay_of_not_ok hnot]
      · have hrest : rest ≠ [] := by
          rintro rfl
          cases hahead
        rwa [emitEvent, emitDelay_view, viewAfterDelay_of_rest hrest]

/-- R142: with every transmit of the queue successful, the delay at its end leaves an INIT's view in the post-INIT state. -/
theorem emitAll_init_afterInit (es : List Event) {ms : Nat} {ds : List Draw} {s : State} (hop : s.op = some .init)
    (hok : s.initOk = true) (hq : s.q = es ++ [.delay ms]) (hlen : ds.length = s.q.length)
    (hds : transmitsOk s.q ds = true) : (s.emitAll ds).view = s.view.afterInit := by
  induction es generalizing s ds with
  | nil =>
    rw [hq] at hlen
    obtain ⟨d, rfl⟩ := List.length_eq_one_iff.mp hlen
    rw [emitAll_cons hq]
    simp [State.emitAll, emitEvent, viewAfterDelay, runsInit, hop, hok]
  | cons e es ih =>
    have hrest : es ++ [.delay ms] ≠ [] := by simp
    rw [hq] at hlen hds
    obtain ⟨d, ds, rfl⟩ := List.exists_cons_of_length_eq_add_one hlen
    rw [emitAll_cons hq]
    cases e with
    | busWrite addr f =>
      obtain ⟨hd, hds⟩ := Bool.and_eq_true_iff.mp hds
      have hview : viewAfterTransmit d f s = s.view := by simp [viewAfterTransmit, runsInit, hop, hd]
      rw [← hview]
      exact ih (s := emitBusWrite d addr f _ s) hop (by simp [hok, hd]) rfl (Nat.succ.inj hlen) hds
    | delay ms' =>
      rw [← viewAfterDelay_of_rest (s := s) hrest]
      exact ih (s := emitDelay d ms' _ s) hop hok rfl (Nat.succ.inj hlen) hds

/-- Settles O41: the acceptance starts the watch with an invalid view, and INIT's events end in a delay. -/
theorem initLeavesTheViewInItsPostState : Obligations.InitLeavesTheViewInItsPostState := by
  intro s t ds hexec hlen
  rw [exec_init] at hexec
  cases hexec
  exact ⟨rfl, fun hok => emitAll_init_afterInit (initEvents.take 16) (ms := 100) rfl rfl rfl hlen hok,
    fun hfail => emitAll_init_invalid ds rfl rfl hlen (.inr hfail)⟩

end Sys2Proof.Machine

/-! PROOFS. Whole requests (rules R11, R21, R116 to R118, R203): a queue goes out an event a step, a string a character in
three steps, and the times of the events add up. The adapter's part of each end state is that of an explicit state. -/

namespace Sys2Proof.Machine

/-- Settles O40, by induction on the queue: each step emits its head with the draw of the state's counter. -/
theorem busyRunEmitsTheQueueWithItsDraws : Obligations.BusyRunEmitsTheQueueWithItsDraws := by
  intro s hcode hmode
  generalize hq : s.q = es
  induction es generalizing s with
  | nil => rfl
  | cons e rest ih =>
    obtain ⟨hm, -, hrest, -, hfault, -⟩ := emitEvent_adapter (Config.draw s.draws) e rest s
    have hrun := ih (emitEvent (Config.draw s.draws) e rest s) (hfault ▸ hcode) (hm.trans hmode) hrest
    rw [List.length_cons, run_succ, step_emit hcode hmode hq, nextDraws_succ s _ (emitEvent_draws _ e rest s),
      emitAll_cons hq]
    exact hrun

theorem run_one {s t : State} (h : step s = .next t) : s.run 1 = .next t := by
  rw [run_succ, h]
  rfl

/-- R21: emission of a whole queue changes the queue and the stream only, and takes at least its delays and a microsecond
for each frame. -/
theorem run_queue {s : State} (hcode : s.fault.code = 0) (hmode : s.mode = .busy) :
    ∃ t, s.run s.q.length = .next t ∧ t.adapter = ({ s with q := [], events := s.events ++ s.q } : State).adapter ∧
      s.elapsed + 1000 * delayTotal s.q + frameCount s.q ≤ t.elapsed := by
  have hlen := nextDraws_length s s.q.length
  obtain ⟨hq, hevents, hm, hop, hptr, hfault, hport, hmem⟩ := emitAll_adapter _ s hlen
  exact ⟨_, busyRunEmitsTheQueueWithItsDraws s hcode hmode,
    adapter_eq_iff.mpr ⟨hm, hop, hq, hptr, hfault, hport, hmem, hevents⟩, emitAll_elapsed _ s hlen⟩

/-- The acceptance of a request, in the adapter's part and the time (R21). -/
theorem step_accepts {s : State} {w : ReqWord} {held : List ReqWord} {i : Instr} (h : s.takes w held)
    (hdec : decode w = .request i) :
    ∃ t, step s = .next t ∧
      t.adapter = ({ s with mode := .busy, op := some i, q := initialExpansion i, ptr := ptrAtAcceptance i s.ptr,
                            port := held } : State).adapter ∧
      t.fault.code = 0 ∧ t.elapsed = s.elapsed := by
  rw [step_of_takes_request h hdec, exec_eq]
  exact ⟨_, rfl, rfl, h.2.1, rfl⟩

theorem ptrAtAcceptance_of_not_string {i : Instr} (hi : ∀ p, i ≠ .sendString p) (p : HostAddr) : ptrAtAcceptance i p = p := by
  unfold ptrAtAcceptance
  split
  · next b => exact absurd rfl (hi b)
  · rfl

/-- R11, R21: the run of a request that is no string, from its word's acceptance to IDLE. -/
theorem run_request {s : State} {w : ReqWord} {held : List ReqWord} {i : Instr} (h : s.takes w held)
    (hdec : decode w = .request i) (hi : ∀ p, i ≠ .sendString p) :
    ∃ t, s.run ((initialExpansion i).length + 2) = .next t ∧
      t.adapter = ({ s with mode := .idle, op := some i, q := [], port := held,
                            events := s.events ++ initialExpansion i } : State).adapter ∧
      s.elapsed + 1000 * delayTotal (initialExpansion i) + frameCount (initialExpansion i) ≤ t.elapsed := by
  obtain ⟨u, haccept, hu, hcode, htime⟩ := step_accepts h hdec
  obtain ⟨humode, huop, huq, huptr, hufault, huport, humem, huevents⟩ := adapter_eq_iff.mp hu
  obtain ⟨v, hrun, hv, hbound⟩ := run_queue hcode humode
  obtain ⟨hvmode, hvop, hvq, hvptr, hvfault, hvport, hvmem, hvevents⟩ := adapter_eq_iff.mp hv
  have hcomplete : step v = .next { v with mode := .idle } :=
    step_of_complete (hvfault ▸ hcode) (hvmode.trans humode) hvq
      fun p hop => hi p (Option.some.inj (huop.symm.trans (hvop.symm.trans hop)))
  refine ⟨{ v with mode := .idle }, ?_, adapter_eq_iff.mpr ⟨rfl, hvop.trans huop, hvq, ?_, hvfault.trans hufault,
    hvport.trans huport, hvmem.trans humem, ?_⟩, ?_⟩
  · rw [show (initialExpansion i).length + 2 = 1 + (u.q.length + 1) by rw [huq]; dsimp only; omega,
      run_add _ (run_one haccept), run_add _ hrun, run_one hcomplete]
  · rw [← ptrAtAcceptance_of_not_string hi s.ptr]
    exact hvptr.trans huptr
  · exact hvevents.trans (congrArg₂ (· ++ ·) huevents huq)
  · rwa [huq, htime] at hbound

/-- Settles O37: the adapter's part of the run's end, field by field. -/
theorem requestEmitsExactlyItsExpansion : Obligations.RequestEmitsExactlyItsExpansion := by
  intro s w held i h hdec hi
  obtain ⟨t, hrun, ht, -⟩ := run_request h hdec hi
  obtain ⟨hmode, hop, hq, hptr, hfault, hport, hmem, hevents⟩ := adapter_eq_iff.mp ht
  exact ⟨t, hrun, hevents, hmode, hq, hop, hptr, hfault, hport, hmem⟩

/-- Host memory holds the nonzero bytes `chars` from `p` on (with wrap), all admitted. -/
def readsChars (m : Memory) (p : HostAddr) : List Byte → Prop
  | [] => True
  | c :: cs => Memory.read m p = some c ∧ c ≠ 0x00 ∧ readsChars m (p + 1) cs

/-- The address after `c :: cs` from `p` is the one after `cs` from `p + 1`. -/
theorem add_ofNat_succ (p : HostAddr) (k : Nat) : p + BitVec.ofNat 32 (k + 1) = p + 1 + BitVec.ofNat 32 k := by
  rw [Nat.add_comm, BitVec.ofNat_add, BitVec.add_assoc]
  rfl

theorem holdsString_iff (m : Memory) (p : HostAddr) (chars : List Byte) :
    holdsString m p chars = true ↔
      readsChars m p chars ∧ Memory.read m (p + BitVec.ofNat 32 chars.length) = some 0x00 := by
  induction chars generalizing p with
  | nil => simp [holdsString, readsChars]
  | cons c cs ih =>
    rw [List.length_cons, add_ofNat_succ]
    simp only [holdsString, readsChars, ih, Bool.and_eq_true, decide_eq_true_eq, and_assoc]

theorem holdsUnterminated_iff (m : Memory) (p : HostAddr) (chars : List Byte) :
    holdsUnterminated m p chars = true ↔
      readsChars m p chars ∧ Memory.read m (p + BitVec.ofNat 32 chars.length) = none := by
  induction chars generalizing p with
  | nil => simp [holdsUnterminated, readsChars]
  | cons c cs ih =>
    rw [List.length_cons, add_ofNat_succ]
    simp only [holdsUnterminated, readsChars, ih, Bool.and_eq_true, decide_eq_true_eq, and_assoc]

/-- Between two characters of a string: BUSY in a SEND_STRING, unfaulted, with nothing left to emit (R21). -/
def State.betweenChars (s : State) : Prop :=
  s.fault.code = 0 ∧ s.mode = .busy ∧ s.q = [] ∧ ∃ p, s.op = some (.sendString p)

theorem State.betweenChars.of_adapter_eq {s t : State} {p : HostAddr} {es : List Event} (h : s.betweenChars)
    (ht : t.adapter = ({ s with ptr := p, events := es } : State).adapter) : t.betweenChars := by
  obtain ⟨hcode, hmode, hq, p, hop⟩ := h
  obtain ⟨htmode, htop, htq, -, htfault, -⟩ := adapter_eq_iff.mp ht
  exact ⟨htfault ▸ hcode, htmode.trans hmode, htq.trans hq, p, htop.trans hop⟩

theorem State.betweenChars.step_eq {s : State} (h : s.betweenChars) : step s = refillString s := by
  obtain ⟨hcode, hmode, hq, p, hop⟩ := h
  exact step_of_string hcode hmode hq hop

/-- R116, R117: one character is a read and two emissions, of its frame and of 1 ms. -/
theorem run_char {s : State} {c : Byte} (h : s.betweenChars) (hread : Memory.read s.hostMem s.ptr = some c) (hc : c ≠ 0x00) :
    ∃ t, s.run 3 = .next t ∧
      t.adapter = ({ s with ptr := s.ptr + 1, events := s.events ++ stringCharEvents c } : State).adapter ∧
      s.elapsed + 1000 + 1 ≤ t.elapsed := by
  have ⟨hcode, hmode, hq, _⟩ := h
  have hrefill := h.step_eq.trans (refillString_of_char hread hc)
  obtain ⟨t, hrun, ht, hbound⟩ :=
    run_queue (s := { s with q := stringCharEvents c, ptr := s.ptr + 1 }) hcode hmode
  refine ⟨t, ?_, ?_, hbound⟩
  · rw [show 3 = 1 + (stringCharEvents c).length from rfl, run_add _ (run_one hrefill)]
    exact hrun
  · rw [ht, adapter_eq_iff]
    exact ⟨rfl, rfl, hq.symm, rfl, rfl, rfl, rfl, rfl⟩

/-- R116, R117: the characters of a string, one after another. -/
theorem run_chars (chars : List Byte) {s : State} (h : s.betweenChars) (hreads : readsChars s.hostMem s.ptr chars) :
    ∃ t, s.run (3 * chars.length) = .next t ∧
      t.adapter = ({ s with ptr := s.ptr + BitVec.ofNat 32 chars.length,
                            events := s.events ++ stringEvents chars } : State).adapter ∧
      s.elapsed + 1000 * chars.length + chars.length ≤ t.elapsed := by
  induction chars generalizing s with
  | nil => exact ⟨s, rfl, by simp [stringEvents], Nat.le_refl _⟩
  | cons c cs ih =>
    obtain ⟨hread, hc, hrest⟩ := hreads
    obtain ⟨u, hrun, hu, hbound⟩ := run_char h hread hc
    obtain ⟨humode, huop, huq, huptr, hufault, huport, humem, huevents⟩ := adapter_eq_iff.mp hu
    obtain ⟨t, hrun', ht, hbound'⟩ := ih (h.of_adapter_eq hu) (by rw [humem, huptr]; exact hrest)
    refine ⟨t, ?_, ?_, ?_⟩
    · rw [List.length_cons, show 3 * (cs.length + 1) = 3 + 3 * cs.length by omega, run_add _ hrun, hrun']
    · rw [ht, adapter_eq_iff, List.length_cons, add_ofNat_succ, stringEvents_cons, ← List.append_assoc]
      exact ⟨humode, huop, huq, by rw [huptr], hufault, huport, humem, by rw [huevents]⟩
    · calc s.elapsed + 1000 * (cs.length + 1) + (cs.length + 1)
          = s.elapsed + 1000 + 1 + 1000 * cs.length + cs.length := by ring
        _ ≤ u.elapsed + 1000 * cs.length + cs.length := by gcongr
        _ ≤ t.elapsed := hbound'

/-- R19, R21, R116: the run of a SEND_STRING from its word's acceptance to the read after its characters. -/
theorem run_string {s : State} {w : ReqWord} {held : List ReqWord} {p : HostAddr} {chars : List Byte} (h : s.takes w held)
    (hdec : decode w = .request (.sendString p)) (hreads : readsChars s.hostMem p chars) :
    ∃ t, s.run (3 * chars.length + 1) = .next t ∧ t.betweenChars ∧
      t.adapter = ({ s with mode := .busy, op := some (.sendString p), q := [], port := held,
                            ptr := p + BitVec.ofNat 32 chars.length, events := s.events ++ stringEvents chars } : State).adapter ∧
      s.elapsed + 1000 * chars.length + chars.length ≤ t.elapsed := by
  obtain ⟨u, haccept, hu, hcode, htime⟩ := step_accepts h hdec
  obtain ⟨humode, huop, huq, huptr, hufault, huport, humem, huevents⟩ := adapter_eq_iff.mp hu
  have hbetween : u.betweenChars := ⟨hcode, humode, huq, p, huop⟩
  obtain ⟨t, hrun, ht, hbound⟩ := run_chars chars hbetween (by rw [humem, huptr]; exact hreads)
  refine ⟨t, ?_, hbetween.of_adapter_eq ht, ?_, htime ▸ hbound⟩
  · rw [Nat.add_comm, run_add _ (run_one haccept), hrun]
  · rw [ht, adapter_eq_iff]
    exact ⟨humode, huop, huq, by rw [huptr]; rfl, hufault, huport, humem, by rw [huevents]⟩

/-- R118: the run of a terminated SEND_STRING, from its word's acceptance to IDLE. -/
theorem run_terminated_string {s : State} {w : ReqWord} {held : List ReqWord} {p : HostAddr} {chars : List Byte}
    (h : s.takes w held) (hdec : decode w = .request (.sendString p)) (hholds : holdsString s.hostMem p chars = true) :
    ∃ t, s.run (3 * chars.length + 2) = .next t ∧
      t.adapter = ({ s with mode := .idle, op := some (.sendString p), q := [], port := held,
                            ptr := p + BitVec.ofNat 32 chars.length, events := s.events ++ stringEvents chars } : State).adapter ∧
      s.elapsed + 1000 * chars.length + chars.length ≤ t.elapsed := by
  obtain ⟨hreads, hend⟩ := (holdsString_iff s.hostMem p chars).mp hholds
  obtain ⟨u, hrun, hbetween, hu, hbound⟩ := run_string h hdec hreads
  obtain ⟨-, huop, huq, huptr, hufault, huport, humem, huevents⟩ := adapter_eq_iff.mp hu
  have hfinish := hbetween.step_eq.trans (refillString_of_terminator (by rw [humem, huptr]; exact hend))
  refine ⟨{ u with mode := .idle }, ?_, adapter_eq_iff.mpr ⟨rfl, huop, huq, huptr, hufault, huport, humem, huevents⟩, hbound⟩
  rw [run_add 1 hrun, run_one hfinish]

/-- Settles O38: the adapter's part of the run's end, field by field. -/
theorem stringEmitsEachCharacterThenCompletes : Obligations.StringEmitsEachCharacterThenCompletes := by
  intro s w held p chars h hdec hholds
  obtain ⟨t, hrun, ht, -⟩ := run_terminated_string h hdec hholds
  obtain ⟨hmode, -, hq, hptr, hfault, -, hmem, hevents⟩ := adapter_eq_iff.mp ht
  exact ⟨t, hrun, hevents, hmode, hq, hptr, hfault, hmem⟩

/-- Settles O39: after the characters, the read at the address behind them has no step. -/
theorem unterminatedStringSticksAtTheUnadmittedAddress : Obligations.UnterminatedStringSticksAtTheUnadmittedAddress := by
  intro s w held p chars h hdec hholds
  obtain ⟨hreads, hend⟩ := (holdsUnterminated_iff s.hostMem p chars).mp hholds
  obtain ⟨t, hrun, hbetween, ht, -⟩ := run_string h hdec hreads
  obtain ⟨hmode, -, -, hptr, -, -, hmem, hevents⟩ := adapter_eq_iff.mp ht
  refine ⟨t, hrun, hevents, hmode, ?_⟩
  rw [hbetween.step_eq, refillString_of_unadmitted (by rw [hmem, hptr]; exact hend), hptr]

/-- Settles O42: a run has one end, and its time is the sum of its events' (R164, R165). -/
theorem requestTakesAtLeastItsDelays : Obligations.RequestTakesAtLeastItsDelays := by
  constructor
  · intro s w held i t h hdec hi hrun
    obtain ⟨t', hrun', -, hbound⟩ := run_request h hdec hi
    cases hrun.symm.trans hrun'
    exact hbound
  · intro s w held p chars t h hdec hholds hrun
    obtain ⟨t', hrun', -, hbound⟩ := run_terminated_string h hdec hholds
    cases hrun.symm.trans hrun'
    exact hbound

end Sys2Proof.Machine
